-- ==== Sys2Proof/Word.lean ====
section
/-! DEFINITION. The widths of the MAU (00_scope.md R6, R7): limbs, command words, operand registers and
the two unsigned widths. -/

namespace Sys2Proof

/-- A byte of a host access. -/
abbrev Byte := BitVec 8

/-- A limb: one 64-bit word of a multi-word integer (R6); also one word of the MMIO window (R51). -/
abbrev Limb := BitVec 64

/-- The contents of one operand register: RW = 512 bits, 8 limbs (R7, R20). -/
abbrev RegVal := BitVec 512

/-- A command word: CMDW = 32 bits (R7, R80). -/
abbrev CmdWord := BitVec 32

/-- The number of an operand register, 0..15 (NREG = 16, R7, R20). -/
abbrev Reg := Fin 16

/-- The unsigned width W in {256, 512} (R2, R6). -/
inductive Width where
  | w256
  | w512
deriving DecidableEq, Repr

/-- W in bits. -/
def Width.bits : Width → Nat
  | .w256 => 256
  | .w512 => 512

/-- N = W / 64, the limb count (R6). -/
def Width.limbs : Width → Nat
  | .w256 => 4
  | .w512 => 8

end Sys2Proof
end

