-- ==== Sys2Proof/Syntax.lean ====
section
/-! DEFINITION. The 51 commands of the MAU (30_encoding.md R84, opcode_table.json), one constructor per row,
and the eight operand shapes (R82). Registers come in the order rd, rs1, rs2, rs3 (R87). -/

namespace Sys2Proof

/-- The operand shapes of R82: which register fields a command uses. -/
inductive Shape where
  | N | D | DA | DAB | AB | A | DABM | DAM
deriving DecidableEq, Repr

/-- A command with its register numbers. -/
inductive Instr where
  -- unsigned family, 40_unsigned.md
  | uzero256 (rd : Reg)
  | uzero512 (rd : Reg)
  | uone256 (rd : Reg)
  | uone512 (rd : Reg)
  | umax256 (rd : Reg)
  | umax512 (rd : Reg)
  | ufromu64_256 (rd : Reg)
  | ufromu64_512 (rd : Reg)
  | ufromi64_256 (rd : Reg)
  | ufromi64_512 (rd : Reg)
  | ufromu32_256 (rd : Reg)
  | ufromu32_512 (rd : Reg)
  | ufromi32_256 (rd : Reg)
  | ufromi32_512 (rd : Reg)
  | uwiden (rd rs1 : Reg)
  | unarrow (rd rs1 : Reg)
  | uadd256 (rd rs1 rs2 : Reg)
  | uadd512 (rd rs1 rs2 : Reg)
  | usub256 (rd rs1 rs2 : Reg)
  | usub512 (rd rs1 rs2 : Reg)
  | umul256 (rd rs1 rs2 : Reg)
  | umul512 (rd rs1 rs2 : Reg)
  | udiv256 (rd rs1 rs2 : Reg)
  | udiv512 (rd rs1 rs2 : Reg)
  | ucmp256 (rs1 rs2 : Reg)
  | ucmp512 (rs1 rs2 : Reg)
  | udigits256 (rd rs1 : Reg)
  | udigits512 (rd rs1 : Reg)
  | uodd (rs1 : Reg)
  | uparse256
  | uparse512
  -- signed family, 41_signed.md
  | sneg (rd rs1 : Reg)
  | scmp (rs1 rs2 : Reg)
  | sadd (rd rs1 rs2 : Reg)
  | ssub (rd rs1 rs2 : Reg)
  | smul (rd rs1 rs2 : Reg)
  | sdiv (rd rs1 rs2 : Reg)
  | sfromu (rd rs1 : Reg)
  | sfromi64 (rd : Reg)
  -- modular family, 42_modular.md
  | madd (rd rs1 rs2 rs3 : Reg)
  | msub (rd rs1 rs2 rs3 : Reg)
  | mmul (rd rs1 rs2 rs3 : Reg)
  | mdiv (rd rs1 rs2 rs3 : Reg)
  | minv (rd rs1 rs3 : Reg)
  -- curve family, 43_curve.md
  | pgen (rd : Reg)
  | pmakeu (rd rs1 rs2 : Reg)
  | pmake (rd rs1 rs2 : Reg)
  | pdbl (rd rs1 : Reg)
  | padd (rd rs1 rs2 : Reg)
  | pmul (rd rs1 rs2 : Reg)
  | peq (rs1 rs2 : Reg)
deriving DecidableEq, Repr

end Sys2Proof
end

