-- ==== Sys2Proof/WellFormed.lean ====
section
/-! DEFINITION. The fields of a command word as raw bits (30_encoding.md R80, R81) and the check that a
shape's fields are legal (R82, R85). A term of `Instr` carries its registers as numbers below 16, so every one
of its terms is well formed by its type; what can be ill formed is a tuple of raw fields. -/

namespace Sys2Proof

/-- The six fields of R80. -/
structure Fields where
  op  : BitVec 8
  rd  : BitVec 4
  rs1 : BitVec 4
  rs2 : BitVec 4
  rs3 : BitVec 4
  rsv : BitVec 8
deriving DecidableEq, Repr

/-- The shape uses RD (R82). -/
def Shape.usesRd : Shape → Bool
  | .D | .DA | .DAB | .DABM | .DAM => true
  | .N | .AB | .A => false

/-- The shape uses RS1 (R82). -/
def Shape.usesRs1 : Shape → Bool
  | .DA | .DAB | .AB | .A | .DABM | .DAM => true
  | .N | .D => false

/-- The shape uses RS2 (R82). -/
def Shape.usesRs2 : Shape → Bool
  | .DAB | .AB | .DABM => true
  | .N | .D | .DA | .A | .DAM => false

/-- The shape uses RS3 (R82). -/
def Shape.usesRs3 : Shape → Bool
  | .DABM | .DAM => true
  | .N | .D | .DA | .DAB | .AB | .A => false

/-- Every register field the shape does not use is 0 (R82). -/
def Shape.unusedZero (sh : Shape) (f : Fields) : Bool :=
  (sh.usesRd || f.rd == 0#4) && (sh.usesRs1 || f.rs1 == 0#4) &&
  (sh.usesRs2 || f.rs2 == 0#4) && (sh.usesRs3 || f.rs3 == 0#4)

/-- The legality check of R85 once the opcode has selected a shape: RSV is 0 and so is every unused field. -/
def Fields.wellFormed (sh : Shape) (f : Fields) : Bool :=
  f.rsv == 0#8 && sh.unusedZero f

end Sys2Proof
end

