-- ==== Sys2Proof/Decode.lean ====
section
/-! DEFINITION. Decoding a command word (30_encoding.md R80 to R86): the opcode map, a decoder total on every
word and on any bytes that rejects by name, and the encoder (R87). -/

namespace Sys2Proof

/-! ### The opcode map (R84) -/

/-- One row of R84: the opcode, the mnemonic as opcode_table.json spells it, the shape, and the command the
row's register fields make. -/
structure OpRow where
  op       : BitVec 8
  mnemonic : String
  shape    : Shape
  make     : Reg → Reg → Reg → Reg → Instr

/-- R84, OP 0x10 to 0x1F: constructors and width conversion. -/
def opMapConstructors : List OpRow :=
  [ ⟨0x10#8, "UZERO.256", .D, fun rd _ _ _ => .uzero256 rd⟩,
    ⟨0x11#8, "UZERO.512", .D, fun rd _ _ _ => .uzero512 rd⟩,
    ⟨0x12#8, "UONE.256", .D, fun rd _ _ _ => .uone256 rd⟩,
    ⟨0x13#8, "UONE.512", .D, fun rd _ _ _ => .uone512 rd⟩,
    ⟨0x14#8, "UMAX.256", .D, fun rd _ _ _ => .umax256 rd⟩,
    ⟨0x15#8, "UMAX.512", .D, fun rd _ _ _ => .umax512 rd⟩,
    ⟨0x16#8, "UFROMU64.256", .D, fun rd _ _ _ => .ufromu64_256 rd⟩,
    ⟨0x17#8, "UFROMU64.512", .D, fun rd _ _ _ => .ufromu64_512 rd⟩,
    ⟨0x18#8, "UFROMI64.256", .D, fun rd _ _ _ => .ufromi64_256 rd⟩,
    ⟨0x19#8, "UFROMI64.512", .D, fun rd _ _ _ => .ufromi64_512 rd⟩,
    ⟨0x1A#8, "UFROMU32.256", .D, fun rd _ _ _ => .ufromu32_256 rd⟩,
    ⟨0x1B#8, "UFROMU32.512", .D, fun rd _ _ _ => .ufromu32_512 rd⟩,
    ⟨0x1C#8, "UFROMI32.256", .D, fun rd _ _ _ => .ufromi32_256 rd⟩,
    ⟨0x1D#8, "UFROMI32.512", .D, fun rd _ _ _ => .ufromi32_512 rd⟩,
    ⟨0x1E#8, "UWIDEN", .DA, fun rd a _ _ => .uwiden rd a⟩,
    ⟨0x1F#8, "UNARROW", .DA, fun rd a _ _ => .unarrow rd a⟩ ]

/-- R84, OP 0x20 to 0x2F: unsigned arithmetic, comparison, digits, parity, parsing (0x2D is reserved). -/
def opMapUnsigned : List OpRow :=
  [ ⟨0x20#8, "UADD.256", .DAB, fun rd a b _ => .uadd256 rd a b⟩,
    ⟨0x21#8, "UADD.512", .DAB, fun rd a b _ => .uadd512 rd a b⟩,
    ⟨0x22#8, "USUB.256", .DAB, fun rd a b _ => .usub256 rd a b⟩,
    ⟨0x23#8, "USUB.512", .DAB, fun rd a b _ => .usub512 rd a b⟩,
    ⟨0x24#8, "UMUL.256", .DAB, fun rd a b _ => .umul256 rd a b⟩,
    ⟨0x25#8, "UMUL.512", .DAB, fun rd a b _ => .umul512 rd a b⟩,
    ⟨0x26#8, "UDIV.256", .DAB, fun rd a b _ => .udiv256 rd a b⟩,
    ⟨0x27#8, "UDIV.512", .DAB, fun rd a b _ => .udiv512 rd a b⟩,
    ⟨0x28#8, "UCMP.256", .AB, fun _ a b _ => .ucmp256 a b⟩,
    ⟨0x29#8, "UCMP.512", .AB, fun _ a b _ => .ucmp512 a b⟩,
    ⟨0x2A#8, "UDIGITS.256", .DA, fun rd a _ _ => .udigits256 rd a⟩,
    ⟨0x2B#8, "UDIGITS.512", .DA, fun rd a _ _ => .udigits512 rd a⟩,
    ⟨0x2C#8, "UODD", .A, fun _ a _ _ => .uodd a⟩,
    ⟨0x2E#8, "UPARSE.256", .N, fun _ _ _ _ => .uparse256⟩,
    ⟨0x2F#8, "UPARSE.512", .N, fun _ _ _ _ => .uparse512⟩ ]

/-- R84, OP 0x40 to 0x47: the signed family. -/
def opMapSigned : List OpRow :=
  [ ⟨0x40#8, "SNEG", .DA, fun rd a _ _ => .sneg rd a⟩,
    ⟨0x41#8, "SCMP", .AB, fun _ a b _ => .scmp a b⟩,
    ⟨0x42#8, "SADD", .DAB, fun rd a b _ => .sadd rd a b⟩,
    ⟨0x43#8, "SSUB", .DAB, fun rd a b _ => .ssub rd a b⟩,
    ⟨0x44#8, "SMUL", .DAB, fun rd a b _ => .smul rd a b⟩,
    ⟨0x45#8, "SDIV", .DAB, fun rd a b _ => .sdiv rd a b⟩,
    ⟨0x46#8, "SFROMU", .DA, fun rd a _ _ => .sfromu rd a⟩,
    ⟨0x47#8, "SFROMI64", .D, fun rd _ _ _ => .sfromi64 rd⟩ ]

/-- R84, OP 0x50 to 0x54: the modular family. -/
def opMapModular : List OpRow :=
  [ ⟨0x50#8, "MADD", .DABM, fun rd a b p => .madd rd a b p⟩,
    ⟨0x51#8, "MSUB", .DABM, fun rd a b p => .msub rd a b p⟩,
    ⟨0x52#8, "MMUL", .DABM, fun rd a b p => .mmul rd a b p⟩,
    ⟨0x53#8, "MDIV", .DABM, fun rd a b p => .mdiv rd a b p⟩,
    ⟨0x54#8, "MINV", .DAM, fun rd a _ p => .minv rd a p⟩ ]

/-- R84, OP 0x60 to 0x66: the curve family. -/
def opMapCurve : List OpRow :=
  [ ⟨0x60#8, "PGEN", .D, fun rd _ _ _ => .pgen rd⟩,
    ⟨0x61#8, "PMAKEU", .DAB, fun rd a b _ => .pmakeu rd a b⟩,
    ⟨0x62#8, "PMAKE", .DAB, fun rd a b _ => .pmake rd a b⟩,
    ⟨0x63#8, "PDBL", .DA, fun rd a _ _ => .pdbl rd a⟩,
    ⟨0x64#8, "PADD", .DAB, fun rd a b _ => .padd rd a b⟩,
    ⟨0x65#8, "PMUL", .DAB, fun rd a b _ => .pmul rd a b⟩,
    ⟨0x66#8, "PEQ", .AB, fun _ a b _ => .peq a b⟩ ]

/-- The opcode map of R84: 51 commands; every opcode not listed is reserved. -/
def opcodeMap : List OpRow :=
  opMapConstructors ++ opMapUnsigned ++ opMapSigned ++ opMapModular ++ opMapCurve

/-! ### Fields -/

/-- Field extraction (R81). -/
def fieldsOf (c : CmdWord) : Fields where
  op  := c.extractLsb' 0 8
  rd  := c.extractLsb' 8 4
  rs1 := c.extractLsb' 12 4
  rs2 := c.extractLsb' 16 4
  rs3 := c.extractLsb' 20 4
  rsv := c.extractLsb' 24 8

/-- A field placed at its lowest bit in a command word. -/
def placeField (lo : Nat) (v : BitVec w) : CmdWord := BitVec.setWidth 32 v <<< lo

/-- The word with the given fields: the layout of R80. -/
def packFields (f : Fields) : CmdWord :=
  placeField 24 f.rsv ||| placeField 20 f.rs3 ||| placeField 16 f.rs2 ||| placeField 12 f.rs1 |||
    placeField 8 f.rd ||| placeField 0 f.op

/-! ### Decoder -/

/-- Why a word (or a string of bytes) is no command (R85). The machine reports each of the first three as
IllegalCommand, code 7; the fourth cannot happen at the CMD register, which holds 32 bits. -/
inductive DecodeError where
  /-- OP is not in the map of R84. -/
  | reservedOpcode
  /-- RSV is nonzero. -/
  | reservedBitsSet
  /-- A register field the shape does not use is nonzero. -/
  | unusedFieldSet
  /-- Not four bytes. -/
  | notOneWord
deriving DecidableEq, Repr

/-- The row of the opcode map an opcode selects (R86: OP alone selects the row). -/
def rowOf (op : BitVec 8) : Option OpRow :=
  opcodeMap.find? fun r => r.op == op

/-- Decode raw fields (R85, R86). -/
def decodeFields (f : Fields) : Except DecodeError Instr :=
  match rowOf f.op with
  | none => .error .reservedOpcode
  | some r =>
    if f.rsv ≠ 0#8 then .error .reservedBitsSet
    else if r.shape.unusedZero f = false then .error .unusedFieldSet
    else .ok (r.make f.rd.toFin f.rs1.toFin f.rs2.toFin f.rs3.toFin)

/-- Decode a command word: every 32-bit word is exactly one command with legal fields, or illegal (R86). -/
def decodeWord (c : CmdWord) : Except DecodeError Instr :=
  decodeFields (fieldsOf c)

/-- Decode a command from the bytes of one CMD write, least significant byte first (20_memory.md R56, R57). -/
def decodeBytes : List Byte → Except DecodeError Instr
  | [b0, b1, b2, b3] =>
    decodeWord (placeField 24 b3 ||| placeField 16 b2 ||| placeField 8 b1 ||| placeField 0 b0)
  | _ => .error .notOneWord

/-! ### Encoder -/

/-- The fields of a command (R82, R84, R87): its opcode, its registers, and 0 in every field it does not use. -/
def Instr.fields : Instr → Fields
  | .uzero256 rd => ⟨0x10#8, .ofFin rd, 0#4, 0#4, 0#4, 0#8⟩
  | .uzero512 rd => ⟨0x11#8, .ofFin rd, 0#4, 0#4, 0#4, 0#8⟩
  | .uone256 rd => ⟨0x12#8, .ofFin rd, 0#4, 0#4, 0#4, 0#8⟩
  | .uone512 rd => ⟨0x13#8, .ofFin rd, 0#4, 0#4, 0#4, 0#8⟩
  | .umax256 rd => ⟨0x14#8, .ofFin rd, 0#4, 0#4, 0#4, 0#8⟩
  | .umax512 rd => ⟨0x15#8, .ofFin rd, 0#4, 0#4, 0#4, 0#8⟩
  | .ufromu64_256 rd => ⟨0x16#8, .ofFin rd, 0#4, 0#4, 0#4, 0#8⟩
  | .ufromu64_512 rd => ⟨0x17#8, .ofFin rd, 0#4, 0#4, 0#4, 0#8⟩
  | .ufromi64_256 rd => ⟨0x18#8, .ofFin rd, 0#4, 0#4, 0#4, 0#8⟩
  | .ufromi64_512 rd => ⟨0x19#8, .ofFin rd, 0#4, 0#4, 0#4, 0#8⟩
  | .ufromu32_256 rd => ⟨0x1A#8, .ofFin rd, 0#4, 0#4, 0#4, 0#8⟩
  | .ufromu32_512 rd => ⟨0x1B#8, .ofFin rd, 0#4, 0#4, 0#4, 0#8⟩
  | .ufromi32_256 rd => ⟨0x1C#8, .ofFin rd, 0#4, 0#4, 0#4, 0#8⟩
  | .ufromi32_512 rd => ⟨0x1D#8, .ofFin rd, 0#4, 0#4, 0#4, 0#8⟩
  | .uwiden rd a => ⟨0x1E#8, .ofFin rd, .ofFin a, 0#4, 0#4, 0#8⟩
  | .unarrow rd a => ⟨0x1F#8, .ofFin rd, .ofFin a, 0#4, 0#4, 0#8⟩
  | .uadd256 rd a b => ⟨0x20#8, .ofFin rd, .ofFin a, .ofFin b, 0#4, 0#8⟩
  | .uadd512 rd a b => ⟨0x21#8, .ofFin rd, .ofFin a, .ofFin b, 0#4, 0#8⟩
  | .usub256 rd a b => ⟨0x22#8, .ofFin rd, .ofFin a, .ofFin b, 0#4, 0#8⟩
  | .usub512 rd a b => ⟨0x23#8, .ofFin rd, .ofFin a, .ofFin b, 0#4, 0#8⟩
  | .umul256 rd a b => ⟨0x24#8, .ofFin rd, .ofFin a, .ofFin b, 0#4, 0#8⟩
  | .umul512 rd a b => ⟨0x25#8, .ofFin rd, .ofFin a, .ofFin b, 0#4, 0#8⟩
  | .udiv256 rd a b => ⟨0x26#8, .ofFin rd, .ofFin a, .ofFin b, 0#4, 0#8⟩
  | .udiv512 rd a b => ⟨0x27#8, .ofFin rd, .ofFin a, .ofFin b, 0#4, 0#8⟩
  | .ucmp256 a b => ⟨0x28#8, 0#4, .ofFin a, .ofFin b, 0#4, 0#8⟩
  | .ucmp512 a b => ⟨0x29#8, 0#4, .ofFin a, .ofFin b, 0#4, 0#8⟩
  | .udigits256 rd a => ⟨0x2A#8, .ofFin rd, .ofFin a, 0#4, 0#4, 0#8⟩
  | .udigits512 rd a => ⟨0x2B#8, .ofFin rd, .ofFin a, 0#4, 0#4, 0#8⟩
  | .uodd a => ⟨0x2C#8, 0#4, .ofFin a, 0#4, 0#4, 0#8⟩
  | .uparse256 => ⟨0x2E#8, 0#4, 0#4, 0#4, 0#4, 0#8⟩
  | .uparse512 => ⟨0x2F#8, 0#4, 0#4, 0#4, 0#4, 0#8⟩
  | .sneg rd a => ⟨0x40#8, .ofFin rd, .ofFin a, 0#4, 0#4, 0#8⟩
  | .scmp a b => ⟨0x41#8, 0#4, .ofFin a, .ofFin b, 0#4, 0#8⟩
  | .sadd rd a b => ⟨0x42#8, .ofFin rd, .ofFin a, .ofFin b, 0#4, 0#8⟩
  | .ssub rd a b => ⟨0x43#8, .ofFin rd, .ofFin a, .ofFin b, 0#4, 0#8⟩
  | .smul rd a b => ⟨0x44#8, .ofFin rd, .ofFin a, .ofFin b, 0#4, 0#8⟩
  | .sdiv rd a b => ⟨0x45#8, .ofFin rd, .ofFin a, .ofFin b, 0#4, 0#8⟩
  | .sfromu rd a => ⟨0x46#8, .ofFin rd, .ofFin a, 0#4, 0#4, 0#8⟩
  | .sfromi64 rd => ⟨0x47#8, .ofFin rd, 0#4, 0#4, 0#4, 0#8⟩
  | .madd rd a b p => ⟨0x50#8, .ofFin rd, .ofFin a, .ofFin b, .ofFin p, 0#8⟩
  | .msub rd a b p => ⟨0x51#8, .ofFin rd, .ofFin a, .ofFin b, .ofFin p, 0#8⟩
  | .mmul rd a b p => ⟨0x52#8, .ofFin rd, .ofFin a, .ofFin b, .ofFin p, 0#8⟩
  | .mdiv rd a b p => ⟨0x53#8, .ofFin rd, .ofFin a, .ofFin b, .ofFin p, 0#8⟩
  | .minv rd a p => ⟨0x54#8, .ofFin rd, .ofFin a, 0#4, .ofFin p, 0#8⟩
  | .pgen rd => ⟨0x60#8, .ofFin rd, 0#4, 0#4, 0#4, 0#8⟩
  | .pmakeu rd a b => ⟨0x61#8, .ofFin rd, .ofFin a, .ofFin b, 0#4, 0#8⟩
  | .pmake rd a b => ⟨0x62#8, .ofFin rd, .ofFin a, .ofFin b, 0#4, 0#8⟩
  | .pdbl rd a => ⟨0x63#8, .ofFin rd, .ofFin a, 0#4, 0#4, 0#8⟩
  | .padd rd a b => ⟨0x64#8, .ofFin rd, .ofFin a, .ofFin b, 0#4, 0#8⟩
  | .pmul rd a b => ⟨0x65#8, .ofFin rd, .ofFin a, .ofFin b, 0#4, 0#8⟩
  | .peq a b => ⟨0x66#8, 0#4, .ofFin a, .ofFin b, 0#4, 0#8⟩

/-- The command word of an instruction (R87). -/
def encode (i : Instr) : CmdWord :=
  packFields i.fields

/-- The assembler's encoding rule: `c = OP | rd<<8 | rs1<<12 | rs2<<16 | rs3<<20` (R87). -/
def assemble (op rd rs1 rs2 rs3 : Nat) : CmdWord :=
  BitVec.ofNat 32 (op ||| rd <<< 8 ||| rs1 <<< 12 ||| rs2 <<< 16 ||| rs3 <<< 20)

/-! ### What acceptance copies (R91) -/

/-- The commands of shape D that read IMM (10_state.md R25): UFROMU64, UFROMI64, UFROMU32, UFROMI32 at both
widths (OP 0x16 to 0x1D) and SFROMI64 (0x47). -/
def opReadsImm (op : BitVec 8) : Bool :=
  (0x16#8 ≤ op && op ≤ 0x1D#8) || op == 0x47#8

/-! ### The host's entry -/

/-- The instruction the decoder reads from the table's word `w` of `nbits` bits: the word is laid out as the
four bytes of a CMD write, least significant byte at the lowest address (20_memory.md R57), bits above
`nbits` being 0. -/
def decodeTableWord (nbits w : Nat) : Option Instr :=
  let v := w % 2 ^ nbits
  (decodeBytes [BitVec.ofNat 8 v, BitVec.ofNat 8 (v / 2 ^ 8), BitVec.ofNat 8 (v / 2 ^ 16),
    BitVec.ofNat 8 (v / 2 ^ 24)]).toOption

end Sys2Proof
end

