-- ==== Sys2Proof/Config.lean ====
section
/-! DEFINITION. What one built unit fixes (00_scope.md R7 to R9): the type of its curve with the default value,
and the base address. The curve itself is an argument of the machine, carried in State (log 9). LAT, the third open
parameter, is not a constant: the interleaving of completions with host accesses is plain data in State (log 1).
IRQ_ROUTE is the platform's (log 16). -/

namespace Sys2Proof

/-- The curve parameters CURVE: y^2 = x^3 + a*x + b modulo p, with generator (gx, gy); 256-bit values (R8). -/
structure Curve where
  pBits  : BitVec 256
  aBits  : BitVec 256
  bBits  : BitVec 256
  gxBits : BitVec 256
  gyBits : BitVec 256
deriving DecidableEq, Repr

/-- CURVE.p, as a natural. -/
def Curve.p (C : Curve) : Nat := C.pBits.toNat

/-- CURVE.a, as a natural. -/
def Curve.a (C : Curve) : Nat := C.aBits.toNat

/-- CURVE.b, as a natural. -/
def Curve.b (C : Curve) : Nat := C.bBits.toNat

/-- CURVE.Gx, as a natural. -/
def Curve.gx (C : Curve) : Nat := C.gxBits.toNat

/-- CURVE.Gy, as a natural. -/
def Curve.gy (C : Curve) : Nat := C.gyBits.toNat

/-- The default of CURVE: secp256k1 (R8). The spec marks p and G as its general knowledge
(93_implementation_defined.md G1). -/
def Config.curve : Curve where
  pBits  := 0xFFFFFFFFFFFFFFFFFFFFFFFFFFFFFFFFFFFFFFFFFFFFFFFFFFFFFFFEFFFFFC2F#256
  aBits  := 0#256
  bBits  := 7#256
  gxBits := 0x79BE667EF9DCBBAC55A06295CE870B07029BFCDB2DCE28D959F2815B16F81798#256
  gyBits := 0x483ADA7726A3C4655DA4FBFC0E1108A8FD17B448A68554199C47D08FFB10D4B8#256

/-- MAU_BASE, the window's base address on the platform's bus: an open parameter (R50, log 8), so no value. -/
opaque Config.mauBase : Nat

/-- WINDOW, the size of the MMIO window in bytes (R7, R50). -/
def Config.windowSize : Nat := 0x800

end Sys2Proof
end

