-- ==== Sys2Proof/Machine/State.lean ====
section
/-! DEFINITION. The state of the MAU as plain data (10_state.md R20 to R34, 70_reset_and_hazards.md R230,
R231), the stop reasons, and the state after reset. -/

namespace Sys2Proof.Machine

/-- Why the machine stops. The MAU itself never stops: its errors are completions (60_exceptions.md R201,
R202) and malformed accesses are defined (20_memory.md R54). -/
inductive Fault where
  /-- A host access at an address outside the MMIO window: "Offsets at or above 0x800 are outside the MAU; what
  they decode to is the platform's" (20_memory.md R51). Raised by `advance`. Safe (log 7). -/
  | outsideWindow
deriving DecidableEq, Repr

/-- Why an instruction has no meaning. No arm of `exec` refuses. -/
inductive Refusal where
  /-- The instruction of this mnemonic has no meaning yet. Raised by no arm of this model. Safe. -/
  | notModelled (mnemonic : String)
deriving DecidableEq, Repr

/-- The error kinds of 60_exceptions.md R200. -/
inductive ErrorKind where
  | divideByZero
  | noModularInverse
  | degenerateGeometry
  | unsupportedOperation
  | widthOverflow
  | invalidPoint
  | illegalCommand
deriving DecidableEq, Repr

/-- An operand register with its sign tag: R[i] and NN[i] (R20, R22). -/
structure Operand where
  val : RegVal
  nn  : Bool
deriving DecidableEq, Repr

/-- The FLAGS register (R26): bits 0 to 3. -/
structure Flags where
  lt  : Bool
  eq  : Bool
  gt  : Bool
  odd : Bool
deriving DecidableEq, Repr

/-- The fields of the STATUS register (R28). -/
structure Status where
  busy    : Bool
  done    : Bool
  err     : Bool
  rej     : Bool
  errcode : BitVec 8
deriving DecidableEq, Repr

/-- The in-flight command (R32, 30_encoding.md R91): the accepted word and the copies taken at acceptance,
each present exactly when the command reads it. -/
structure InFlight where
  word : CmdWord
  src1 : Option Operand
  src2 : Option Operand
  src3 : Option Operand
  imm  : Option (BitVec 64)
deriving DecidableEq, Repr

/-- Where a host access goes: an offset from MAU_BASE, as every rule writes it (20_memory.md R50), or an
address on the platform's bus (log 8). -/
inductive HostAddr where
  | off (o : Nat)
  | bus (a : Nat)
deriving DecidableEq, Repr

/-- What the outside does next (log 1). Each input is one indivisible event (20_memory.md R59). -/
inductive Input where
  /-- MemRead(addr, n) (R55). -/
  | read (addr : HostAddr) (n : Nat)
  /-- MemWrite(addr, n, v) (R56). -/
  | write (addr : HostAddr) (n v : Nat)
  /-- The reset input is driven to this level (70_reset R230). -/
  | rst (level : Bool)
  /-- No host access arrives and the MAU takes its own step: it completes the command in flight, if there is
  one (70_reset R245). -/
  | mau
deriving DecidableEq, Repr

/-- The state of the MAU, with its configuration CURVE. The last two fields are the model's own (log 1, log 4). -/
structure State where
  /-- CURVE, the configuration of this unit (00_scope.md R8, R33): an argument of the machine, which no step
  changes (log 9). -/
  curve    : Curve
  /-- R0 to R15 (R20). -/
  regs     : Vector RegVal 16
  /-- The sign tags, bit i = NN[i], as SIGNS holds them (R22). -/
  nn       : BitVec 16
  /-- IMM (R25). -/
  imm      : BitVec 64
  /-- FLAGS (R26). -/
  flags    : Flags
  /-- CTRL.IEN (R27). -/
  ien      : Bool
  /-- STATUS (R28). -/
  status   : Status
  /-- CMDR (R31). -/
  cmdr     : CmdWord
  /-- The in-flight command, none when idle (R32). -/
  inflight : Option InFlight
  /-- The level of the reset input (70_reset R230). -/
  rst      : Bool
  /-- What the outside does next, in order (log 1). -/
  inputs   : List Input
  /-- The bytes the most recent host read returned, lowest address first (log 4). -/
  readData : List Byte
deriving DecidableEq, Repr

/-- The state after reset (70_reset R231) of a unit built with the default CURVE, with rst deasserted and no input
waiting. A unit built with another curve C is after reset in `{ State.reset with curve := C }`. -/
def State.reset : State where
  curve    := Config.curve
  regs     := Vector.replicate 16 0#512
  nn       := 0xFFFF#16
  imm      := 0#64
  flags    := ⟨false, false, false, false⟩
  ien      := false
  status   := ⟨false, false, false, false, 0#8⟩
  cmdr     := 0#32
  inflight := none
  rst      := false
  inputs   := []
  readData := []

/-- The outcome of one step of the MAU. -/
abbrev Result := Host.Outcome State Fault Refusal

end Sys2Proof.Machine
end

