-- ==== Sys2Proof/Machine/Operands.lean ====
section
/-! DEFINITION. The operand views of 10_state.md R23 and the values they read as (00_scope.md R10 to R14):
naturals of a stated width, signed values, points, and the native readings of IMM. -/

namespace Sys2Proof.Machine

/-- A signed value S(m, nn): magnitude and the tag "is non-negative" (R13). -/
structure Signed where
  m  : Nat
  nn : Bool
deriving DecidableEq, Repr

/-- val(S(m, nn)) (R13). -/
def Signed.val (s : Signed) : Int :=
  if s.nn then (s.m : Int) else -(s.m : Int)

/-- A point Pt(x, y) (R14). -/
structure Point where
  x : Nat
  y : Nat
deriving DecidableEq, Repr

/-- Limb l of a value (R10). -/
def limb (l v : Nat) : Nat := v / 2 ^ (64 * l) % 2 ^ 64

/-! ### Views (R23) -/

/-- U256(i): bits 255:0, the rest ignored. -/
def Operand.u256 (o : Operand) : Nat := (o.val.extractLsb' 0 256).toNat

/-- U512(i). -/
def Operand.u512 (o : Operand) : Nat := o.val.toNat

/-- UW(i). -/
def Operand.uW (o : Operand) : Width → Nat
  | .w256 => o.u256
  | .w512 => o.u512

/-- SV(i). -/
def Operand.signed (o : Operand) : Signed := ⟨o.val.toNat, o.nn⟩

/-- PV(i): x = bits 255:0, y = bits 511:256. -/
def Operand.point (o : Operand) : Point :=
  ⟨(o.val.extractLsb' 0 256).toNat, (o.val.extractLsb' 256 256).toNat⟩

/-! ### Results (R24): what a command writes to R[rd] and NN[rd] -/

/-- A W-bit unsigned result: zero-extended, tag 1. -/
def Operand.ofUnsigned (v : Nat) : Operand := ⟨BitVec.ofNat 512 v, true⟩

/-- A signed result: magnitude and tag. -/
def Operand.ofSigned (s : Signed) : Operand := ⟨BitVec.ofNat 512 s.m, s.nn⟩

/-- A point result: {y, x}, tag 1. -/
def Operand.ofPoint (pt : Point) : Operand :=
  ⟨BitVec.ofNat 256 pt.y ++ BitVec.ofNat 256 pt.x, true⟩

/-! ### The native readings of IMM (40_unsigned.md R105 to R108, 41_signed.md R153) -/

/-- IMM as a 64-bit unsigned literal. -/
def immU64 (imm : BitVec 64) : Nat := imm.toNat

/-- IMM as a 64-bit two's-complement integer. -/
def immI64 (imm : BitVec 64) : Int := imm.toInt

/-- IMM[31:0] as a 32-bit unsigned literal. -/
def immU32 (imm : BitVec 64) : Nat := (imm.extractLsb' 0 32).toNat

/-- IMM[31:0] as a 32-bit two's-complement integer. -/
def immI32 (imm : BitVec 64) : Int := (imm.extractLsb' 0 32).toInt

end Sys2Proof.Machine
end

