-- ==== Sys2Proof/Machine/Flags.lean ====
section
/-! DEFINITION. The flag computations (10_state.md R26): three-way order, point equality, parity. -/

namespace Sys2Proof.Machine

/-- ucmp on naturals: LT, EQ or GT (40_unsigned.md R100). -/
def ucmp (a b : Nat) : Ordering :=
  if a < b then .lt else if a = b then .eq else .gt

/-- FLAGS after UCMP or SCMP with relation `o`: ODD is unchanged (40_unsigned.md R116, 41_signed.md R147). -/
def Flags.setOrder (f : Flags) (o : Ordering) : Flags :=
  { f with lt := o == .lt, eq := o == .eq, gt := o == .gt }

/-- FLAGS after PEQ: EQ is the equality, LT and GT are cleared, ODD is unchanged (43_curve.md R187). -/
def Flags.setEquality (f : Flags) (e : Bool) : Flags :=
  { f with lt := false, eq := e, gt := false }

/-- FLAGS after UODD: only ODD is written (40_unsigned.md R118). -/
def Flags.setOdd (f : Flags) (b : Bool) : Flags :=
  { f with odd := b }

end Sys2Proof.Machine
end

