-- ==== Sys2Proof/Machine/Ops.lean ====
section
/-! DEFINITION. The shared operations over registers and status: register access, acceptance and snapshot
(30_encoding.md R90, R91), commit (R92), error completion (60_exceptions.md R202) and the return from the error
state (R207), rejection (R208), reset (70_reset R230 to R232), the interrupt output (R210). -/

namespace Sys2Proof.Machine

/-! ### Registers -/

/-- R[i] (00_scope.md R12). -/
def State.reg (s : State) (r : Reg) : RegVal := s.regs[r.val]

/-- NN[i] (10_state.md R22). -/
def State.tag (s : State) (r : Reg) : Bool := s.nn.getLsbD r.val

/-- R[i] with its tag. -/
def State.operand (s : State) (r : Reg) : Operand := ⟨s.reg r, s.tag r⟩

/-- The 16 tags with bit r set to b. -/
def setTag (nn : BitVec 16) (r : Reg) (b : Bool) : BitVec 16 :=
  if b then nn ||| BitVec.twoPow 16 r.val else nn &&& ~~~ BitVec.twoPow 16 r.val

/-- R[r] <- o.val, NN[r] <- o.nn. No register is hardwired (R20). -/
def State.writeOperand (s : State) (r : Reg) (o : Operand) : State :=
  { s with regs := s.regs.set r.val o.val, nn := setTag s.nn r o.nn }

/-! ### Error codes (60_exceptions.md R200) -/

/-- The code of an error kind. -/
def ErrorKind.code : ErrorKind → BitVec 8
  | .divideByZero => 1#8
  | .noModularInverse => 2#8
  | .degenerateGeometry => 3#8
  | .unsupportedOperation => 4#8
  | .widthOverflow => 5#8
  | .invalidPoint => 6#8
  | .illegalCommand => 7#8

/-! ### Acceptance and snapshot -/

/-- The in-flight state taken at acceptance of word c (R91): the sources the shape uses, and IMM where the
command reads it; of an illegal word nothing is copied. -/
def State.snapshot (s : State) (c : CmdWord) : InFlight :=
  let f := fieldsOf c
  match decodeWord c, rowOf f.op with
  | .ok _, some row =>
    { word := c
      src1 := if row.shape.usesRs1 then some (s.operand f.rs1.toFin) else none
      src2 := if row.shape.usesRs2 then some (s.operand f.rs2.toFin) else none
      src3 := if row.shape.usesRs3 then some (s.operand f.rs3.toFin) else none
      imm  := if opReadsImm f.op then some s.imm else none }
  | _, _ => { word := c, src1 := none, src2 := none, src3 := none, imm := none }

/-- Acceptance of a command word (R90): CMDR, DONE, BUSY, and the snapshot. -/
def State.accept (s : State) (c : CmdWord) : State :=
  { s with
    cmdr := c
    status := { s.status with done := false, busy := true }
    inflight := some (s.snapshot c) }

/-- A rejected access sets REJ and changes nothing else (60_exceptions.md R208). -/
def State.reject (s : State) : State :=
  { s with status := { s.status with rej := true } }

/-- A command word offered by a CMD write (R90). -/
def State.offer (s : State) (c : CmdWord) : State :=
  if s.status.busy || s.status.err then s.reject else s.accept c

/-! ### What a command reads: the snapshot

A command's pseudocode runs on the copies taken at acceptance (R91). Where no command is in flight (a state in
which `advance` runs no command) the register itself is read, as an acceptance in that state would copy it
(log 11). -/

/-- R[rs1] with its tag, from the snapshot. -/
def State.src1 (s : State) (r : Reg) : Operand :=
  (s.inflight.bind InFlight.src1).getD (s.operand r)

/-- R[rs2] with its tag, from the snapshot. -/
def State.src2 (s : State) (r : Reg) : Operand :=
  (s.inflight.bind InFlight.src2).getD (s.operand r)

/-- R[rs3] with its tag, from the snapshot. -/
def State.src3 (s : State) (r : Reg) : Operand :=
  (s.inflight.bind InFlight.src3).getD (s.operand r)

/-- IMM, from the snapshot. -/
def State.srcImm (s : State) : BitVec 64 :=
  (s.inflight.bind InFlight.imm).getD s.imm

/-! ### Commit and error completion -/

/-- The end of a successful command (R92): BUSY <- 0, DONE <- 1; nothing of the in-flight state survives (R32). -/
def State.complete (s : State) : State :=
  { s with status := { s.status with busy := false, done := true }, inflight := none }

/-- Error completion (60_exceptions.md R202): BUSY <- 0, DONE <- 1, ERR <- 1, ERRCODE <- code(E), in one event;
no register, tag, flag or IMM bit is written (R201). -/
def State.raise (s : State) (e : ErrorKind) : State :=
  { s with
    status := { s.status with busy := false, done := true, err := true, errcode := e.code }
    inflight := none }

/-- Commit of a command whose Writes are R[rd] and NN[rd] (R92), or its error completion. -/
def State.commitReg (s : State) (rd : Reg) : Except ErrorKind Operand → Result
  | .ok o => .next (s.writeOperand rd o).complete
  | .error e => .next (s.raise e)

/-- Commit of a command whose Writes are flags only; none of these raises. -/
def State.commitFlags (s : State) (f : Flags) : Result :=
  .next { s with flags := f }.complete

/-- Completion of a command that always raises. -/
def State.commitError (s : State) (e : ErrorKind) : Result :=
  .next (s.raise e)

/-- A W1C write to STATUS (10_state.md R28), `w` having 1 where the host writes 1 to a covered bit: bit 1 clears
DONE; bit 2 clears ERR and with it ERRCODE, the return from the error state (60_exceptions.md R207); bit 3
clears REJ. -/
def State.w1cStatus (s : State) (w : BitVec 64) : State :=
  { s with status :=
    { s.status with
      done := s.status.done && !w.getLsbD 1
      err := s.status.err && !w.getLsbD 2
      errcode := if w.getLsbD 2 then 0#8 else s.status.errcode
      rej := s.status.rej && !w.getLsbD 3 } }

/-! ### Reset and interrupt -/

/-- The reset input is driven to `level` (70_reset R230 to R232). While it is asserted, and after it is
deasserted, every state element has its reset value; a command in flight is abandoned. Reset does not touch CURVE
(R233). Driving a deasserted input low changes nothing (log 5). -/
def State.setRst (s : State) (level : Bool) : State :=
  if level || s.rst then
    { State.reset with curve := s.curve, rst := level, inputs := s.inputs, readData := s.readData }
  else s

/-- The interrupt output: irq = CTRL.IEN AND STATUS.DONE (60_exceptions.md R210). -/
def State.irq (s : State) : Bool := s.ien && s.status.done

/-- The state in which the command word `c` has just been accepted and the MAU's own step comes next: what the
host does to run one command (70_reset R234, 30_encoding.md R90), from any state (log 12). -/
def State.loadCommand (s : State) (c : CmdWord) : State :=
  State.accept
    { s with
      rst := false
      status := { s.status with err := false, errcode := 0#8 }
      inputs := .mau :: s.inputs } c

end Sys2Proof.Machine
end

