-- ==== Sys2Proof/Machine/Unsigned.lean ====
section
/-! DEFINITION. The fixed-width unsigned family (40_unsigned.md): the shared functions of R100 and R101 on
naturals, and one meaning per command (R102 to R121). -/

namespace Sys2Proof.Machine

/-! ### Shared functions (R100, R101) -/

/-- uadd_W (R100): wraps modulo 2^W. -/
def uadd (W : Width) (a b : Nat) : Nat := (a + b) % 2 ^ W.bits

/-- usub_W (R100): a - b as an integer, then modulo 2^W. -/
def usub (W : Width) (a b : Nat) : Nat := (((a : Int) - (b : Int)) % ((2 ^ W.bits : Nat) : Int)).toNat

/-- umul_W (R100): the low W bits of the product. -/
def umul (W : Width) (a b : Nat) : Nat := (a * b) % 2 ^ W.bits

/-- udiv_W (R100): the same at both widths, the quotient of W-bit values being a W-bit value. -/
def udiv (a b : Nat) : Except ErrorKind Nat :=
  if b = 0 then .error .divideByZero else .ok (a / b)

/-- The scan of `digits`, from limb n - 1 down to limb 0. -/
def digitsFrom : Nat → Nat → Nat
  | 0, _ => 1
  | n + 1, v => if limb n v ≠ 0 then n + 1 else digitsFrom n v

/-- digits_W (R101): the 1-based index of the highest nonzero limb, 1 for the value 0. -/
def digits (W : Width) (v : Nat) : Nat := digitsFrom W.limbs v

/-- widen (R101): a 256-bit value as a 512-bit value. -/
def widen (v : Nat) : Nat := v

/-- narrow (R101): a 512-bit value as a 256-bit value, when its digit count fits. -/
def narrow (v : Nat) : Except ErrorKind Nat :=
  if digits .w512 v > 4 then .error .widthOverflow else .ok v

/-! ### Shared forms of the commands -/

/-- A command whose result is the unsigned value v (R24). -/
def unsignedResult (rd : Reg) (v : Nat) (s : State) : Result :=
  s.commitReg rd (.ok (.ofUnsigned v))

/-- UADD.W, USUB.W, UMUL.W: a total function of two W-bit views. -/
def unsignedBinary (W : Width) (f : Nat → Nat → Nat) (rd rs1 rs2 : Reg) (s : State) : Result :=
  unsignedResult rd (f ((s.src1 rs1).uW W) ((s.src2 rs2).uW W)) s

/-- UDIV.W (R114). -/
def unsignedDivide (W : Width) (rd rs1 rs2 : Reg) (s : State) : Result :=
  s.commitReg rd ((udiv ((s.src1 rs1).uW W) ((s.src2 rs2).uW W)).map .ofUnsigned)

/-- UCMP.W (R116). -/
def unsignedCompare (W : Width) (rs1 rs2 : Reg) (s : State) : Result :=
  s.commitFlags (s.flags.setOrder (ucmp ((s.src1 rs1).uW W) ((s.src2 rs2).uW W)))

/-- UDIGITS.W (R117). -/
def unsignedDigits (W : Width) (rd rs1 : Reg) (s : State) : Result :=
  unsignedResult rd (digits W ((s.src1 rs1).uW W)) s

/-! ### Constructors (R102 to R108) -/

/-- UZERO.256 (R102). -/
def execUzero256 (rd : Reg) (s : State) : Result := unsignedResult rd 0 s

/-- UZERO.512 (R102). -/
def execUzero512 (rd : Reg) (s : State) : Result := unsignedResult rd 0 s

/-- UONE.256 (R103). -/
def execUone256 (rd : Reg) (s : State) : Result := unsignedResult rd 1 s

/-- UONE.512 (R103). -/
def execUone512 (rd : Reg) (s : State) : Result := unsignedResult rd 1 s

/-- UMAX.256 (R104). -/
def execUmax256 (rd : Reg) (s : State) : Result := unsignedResult rd (2 ^ Width.w256.bits - 1) s

/-- UMAX.512 (R104). -/
def execUmax512 (rd : Reg) (s : State) : Result := unsignedResult rd (2 ^ Width.w512.bits - 1) s

/-- UFROMU64.256 (R105). -/
def execUfromu64_256 (rd : Reg) (s : State) : Result := unsignedResult rd (immU64 s.srcImm) s

/-- UFROMU64.512 (R105). -/
def execUfromu64_512 (rd : Reg) (s : State) : Result := unsignedResult rd (immU64 s.srcImm) s

/-- UFROMI64.256 (R106): the absolute value. -/
def execUfromi64_256 (rd : Reg) (s : State) : Result := unsignedResult rd (immI64 s.srcImm).natAbs s

/-- UFROMI64.512 (R106). -/
def execUfromi64_512 (rd : Reg) (s : State) : Result := unsignedResult rd (immI64 s.srcImm).natAbs s

/-- UFROMU32.256 (R107): IMM[63:32] is ignored. -/
def execUfromu32_256 (rd : Reg) (s : State) : Result := unsignedResult rd (immU32 s.srcImm) s

/-- UFROMU32.512 (R107). -/
def execUfromu32_512 (rd : Reg) (s : State) : Result := unsignedResult rd (immU32 s.srcImm) s

/-- UFROMI32.256 (R108): the absolute value of IMM[31:0]. -/
def execUfromi32_256 (rd : Reg) (s : State) : Result := unsignedResult rd (immI32 s.srcImm).natAbs s

/-- UFROMI32.512 (R108). -/
def execUfromi32_512 (rd : Reg) (s : State) : Result := unsignedResult rd (immI32 s.srcImm).natAbs s

/-! ### Width conversion (R109, R110) -/

/-- UWIDEN (R109). -/
def execUwiden (rd rs1 : Reg) (s : State) : Result := unsignedResult rd (widen (s.src1 rs1).u256) s

/-- UNARROW (R110): raises WidthOverflow. -/
def execUnarrow (rd rs1 : Reg) (s : State) : Result :=
  s.commitReg rd ((narrow (s.src1 rs1).u512).map .ofUnsigned)

/-! ### Arithmetic (R111 to R114) -/

/-- UADD.256 (R111). -/
def execUadd256 (rd rs1 rs2 : Reg) (s : State) : Result := unsignedBinary .w256 (uadd .w256) rd rs1 rs2 s

/-- UADD.512 (R111). -/
def execUadd512 (rd rs1 rs2 : Reg) (s : State) : Result := unsignedBinary .w512 (uadd .w512) rd rs1 rs2 s

/-- USUB.256 (R112). -/
def execUsub256 (rd rs1 rs2 : Reg) (s : State) : Result := unsignedBinary .w256 (usub .w256) rd rs1 rs2 s

/-- USUB.512 (R112). -/
def execUsub512 (rd rs1 rs2 : Reg) (s : State) : Result := unsignedBinary .w512 (usub .w512) rd rs1 rs2 s

/-- UMUL.256 (R113). -/
def execUmul256 (rd rs1 rs2 : Reg) (s : State) : Result := unsignedBinary .w256 (umul .w256) rd rs1 rs2 s

/-- UMUL.512 (R113). -/
def execUmul512 (rd rs1 rs2 : Reg) (s : State) : Result := unsignedBinary .w512 (umul .w512) rd rs1 rs2 s

/-- UDIV.256 (R114): raises DivideByZero. -/
def execUdiv256 (rd rs1 rs2 : Reg) (s : State) : Result := unsignedDivide .w256 rd rs1 rs2 s

/-- UDIV.512 (R114). -/
def execUdiv512 (rd rs1 rs2 : Reg) (s : State) : Result := unsignedDivide .w512 rd rs1 rs2 s

/-! ### Comparison, digit count, parity (R116 to R118) -/

/-- UCMP.256 (R116). -/
def execUcmp256 (rs1 rs2 : Reg) (s : State) : Result := unsignedCompare .w256 rs1 rs2 s

/-- UCMP.512 (R116). -/
def execUcmp512 (rs1 rs2 : Reg) (s : State) : Result := unsignedCompare .w512 rs1 rs2 s

/-- UDIGITS.256 (R117). -/
def execUdigits256 (rd rs1 : Reg) (s : State) : Result := unsignedDigits .w256 rd rs1 s

/-- UDIGITS.512 (R117). -/
def execUdigits512 (rd rs1 : Reg) (s : State) : Result := unsignedDigits .w512 rd rs1 s

/-- UODD (R118). -/
def execUodd (rs1 : Reg) (s : State) : Result :=
  s.commitFlags (s.flags.setOdd ((s.src1 rs1).val.getLsbD 0))

/-! ### Parsing (R121) -/

/-- UPARSE.256 (R121): always raises UnsupportedOperation. -/
def execUparse256 (s : State) : Result := s.commitError .unsupportedOperation

/-- UPARSE.512 (R121). -/
def execUparse512 (s : State) : Result := s.commitError .unsupportedOperation

end Sys2Proof.Machine
end

