-- ==== Sys2Proof/Machine/Signed.lean ====
section
/-! DEFINITION. The signed family (41_signed.md): the functions of R140 to R145 on S(m, nn), and one meaning per
command (R146 to R153). -/

namespace Sys2Proof.Machine

/-! ### Shared functions -/

/-- sneg (R140). -/
def sneg (a : Signed) : Signed := ⟨a.m, !a.nn⟩

/-- scmp (R141). -/
def scmp (a b : Signed) : Ordering :=
  if a.m = 0 ∧ b.m = 0 then .eq
  else if a.nn ≠ b.nn then (if a.nn then .gt else .lt)
  else if a.nn then ucmp a.m b.m
  else ucmp b.m a.m

/-- sadd (R142): a is tested for zero first; a tie of magnitudes with differing signs takes a's tag. -/
def sadd (a b : Signed) : Signed :=
  if a.m = 0 then b
  else if b.m = 0 then a
  else if a.nn = b.nn then ⟨uadd .w512 a.m b.m, a.nn⟩
  else if b.m ≤ a.m then ⟨a.m - b.m, a.nn⟩
  else ⟨b.m - a.m, b.nn⟩

/-- ssub (R143). -/
def ssub (a b : Signed) : Signed := sadd a (sneg b)

/-- smul (R144): the result's tag is the XNOR of the tags. -/
def smul (a b : Signed) : Signed := ⟨umul .w512 a.m b.m, a.nn == b.nn⟩

/-- sdiv (R145): truncates toward zero. -/
def sdiv (a b : Signed) : Except ErrorKind Signed :=
  if b.m = 0 then .error .divideByZero else .ok ⟨a.m / b.m, a.nn == b.nn⟩

/-! ### Commands -/

/-- A command whose result is a signed function of its two signed views. -/
def signedBinary (f : Signed → Signed → Except ErrorKind Signed) (rd rs1 rs2 : Reg) (s : State) : Result :=
  s.commitReg rd ((f (s.src1 rs1).signed (s.src2 rs2).signed).map .ofSigned)

/-- SNEG (R146). -/
def execSneg (rd rs1 : Reg) (s : State) : Result :=
  s.commitReg rd (.ok (.ofSigned (sneg (s.src1 rs1).signed)))

/-- SCMP (R147). -/
def execScmp (rs1 rs2 : Reg) (s : State) : Result :=
  s.commitFlags (s.flags.setOrder (scmp (s.src1 rs1).signed (s.src2 rs2).signed))

/-- SADD (R148). -/
def execSadd (rd rs1 rs2 : Reg) (s : State) : Result :=
  signedBinary (fun a b => .ok (sadd a b)) rd rs1 rs2 s

/-- SSUB (R149). -/
def execSsub (rd rs1 rs2 : Reg) (s : State) : Result :=
  signedBinary (fun a b => .ok (ssub a b)) rd rs1 rs2 s

/-- SMUL (R150). -/
def execSmul (rd rs1 rs2 : Reg) (s : State) : Result :=
  signedBinary (fun a b => .ok (smul a b)) rd rs1 rs2 s

/-- SDIV (R151): raises DivideByZero. -/
def execSdiv (rd rs1 rs2 : Reg) (s : State) : Result :=
  signedBinary sdiv rd rs1 rs2 s

/-- SFROMU (R152): all 512 bits, tag 1. -/
def execSfromu (rd rs1 : Reg) (s : State) : Result :=
  unsignedResult rd (s.src1 rs1).u512 s

/-- SFROMI64 (R153): the absolute value of IMM and its sign. -/
def execSfromi64 (rd : Reg) (s : State) : Result :=
  s.commitReg rd (.ok (.ofSigned ⟨(immI64 s.srcImm).natAbs, decide (0 ≤ immI64 s.srcImm)⟩))

end Sys2Proof.Machine
end

