-- ==== Sys2Proof/Machine/Modular.lean ====
section
/-! DEFINITION. Modular (clock) arithmetic (42_modular.md): the functions of R161 to R165 with 512-bit
intermediates, and one meaning per command (R161 to R166). No operand is checked against p (R160). -/

namespace Sys2Proof.Machine

/-! ### Functions -/

/-- clock_add (R161): one conditional subtraction. -/
def clockAdd (a b p : Nat) : Except ErrorKind Nat :=
  let sum := uadd .w512 (widen a) (widen b)
  narrow (if ucmp sum (widen p) ≠ .lt then usub .w512 sum (widen p) else sum)

/-- clock_sub (R162). -/
def clockSub (a b p : Nat) : Except ErrorKind Nat :=
  narrow (if ucmp (widen a) (widen b) = .lt
    then usub .w512 (widen p) (usub .w512 (widen b) (widen a))
    else usub .w512 (widen a) (widen b))

/-- clock_mul (R163): raises DivideByZero if p = 0. -/
def clockMul (a b p : Nat) : Except ErrorKind Nat :=
  let x := umul .w512 (widen a) (widen b)
  if ucmp x (widen p) ≠ .lt then
    match udiv x (widen p) with
    | .ok q => narrow (usub .w512 x (umul .w512 q (widen p)))
    | .error e => .error e
  else narrow x

/-- The loop of modinv (R164): from (t, nt, r, nr) to the final (t, r). The fuel is at least nr.m at every call,
and nr.m strictly decreases, so the fuel is used up only when nr.m = 0, where the loop ends (log 14). -/
def modinvLoop : Nat → Signed → Signed → Signed → Signed → Except ErrorKind (Signed × Signed)
  | 0, t, _, r, _ => .ok (t, r)
  | fuel + 1, t, nt, r, nr =>
    if nr.m = 0 then .ok (t, r)
    else match sdiv r nr with
      | .ok q => modinvLoop fuel nt (ssub t (smul q nt)) nr (ssub r (smul q nr))
      | .error e => .error e

/-- modinv (R164): extended Euclid in signed 512-bit arithmetic; b = 0 is DivideByZero (90_conflicts.md C1). -/
def modinv (b p : Nat) : Except ErrorKind Nat :=
  if b = 0 then .error .divideByZero
  else match modinvLoop b ⟨0, true⟩ ⟨1, true⟩ ⟨widen p, true⟩ ⟨widen b, true⟩ with
    | .ok (t, r) =>
      if r.m ≠ 1 then .error .noModularInverse
      else narrow (if scmp t ⟨0, true⟩ = .lt then sadd t ⟨widen p, true⟩ else t).m
    | .error e => .error e

/-- clock_div (R165): the inverse first, then the product. -/
def clockDiv (a b p : Nat) : Except ErrorKind Nat :=
  match modinv b p with
  | .ok c => clockMul a c p
  | .error e => .error e

/-! ### Commands -/

/-- A modular command of shape DABM: a 256-bit result from three 256-bit views (R160). -/
def modularTernary (f : Nat → Nat → Nat → Except ErrorKind Nat) (rd rs1 rs2 rs3 : Reg) (s : State) : Result :=
  s.commitReg rd ((f (s.src1 rs1).u256 (s.src2 rs2).u256 (s.src3 rs3).u256).map .ofUnsigned)

/-- MADD (R161). -/
def execMadd (rd rs1 rs2 rs3 : Reg) (s : State) : Result := modularTernary clockAdd rd rs1 rs2 rs3 s

/-- MSUB (R162). -/
def execMsub (rd rs1 rs2 rs3 : Reg) (s : State) : Result := modularTernary clockSub rd rs1 rs2 rs3 s

/-- MMUL (R163). -/
def execMmul (rd rs1 rs2 rs3 : Reg) (s : State) : Result := modularTernary clockMul rd rs1 rs2 rs3 s

/-- MDIV (R165). -/
def execMdiv (rd rs1 rs2 rs3 : Reg) (s : State) : Result := modularTernary clockDiv rd rs1 rs2 rs3 s

/-- MINV (R166): the division of 1. -/
def execMinv (rd rs1 rs3 : Reg) (s : State) : Result :=
  s.commitReg rd ((clockDiv 1 (s.src1 rs1).u256 (s.src3 rs3).u256).map .ofUnsigned)

end Sys2Proof.Machine
end

