-- ==== Sys2Proof/Machine/Curve.lean ====
section
/-! DEFINITION. The curve family (43_curve.md): doubling, addition and scalar multiplication over a curve given
as an argument, and one meaning per command (R181 to R187), at the unit's CURVE (log 9). The field operations run
in the order written there; the first error is the command's (60_exceptions.md R205). -/

namespace Sys2Proof.Machine

/-! ### Functions -/

/-- Whether PMAKE accepts (x, y) (R183): both in range and the curve equation, computed by clock operations. -/
def pointCheck (C : Curve) (x y : Nat) : Except ErrorKind Point := do
  if C.p ≤ x ∨ C.p ≤ y then throw .invalidPoint
  let lhs ← clockMul y y C.p
  let xx ← clockMul x x C.p
  let xxx ← clockMul xx x C.p
  let ax ← clockMul C.a x C.p
  let t ← clockAdd xxx ax C.p
  let rhs ← clockAdd t C.b C.p
  if lhs ≠ rhs then throw .invalidPoint
  return ⟨x, y⟩

/-- pdbl (R184). -/
def pdbl (C : Curve) (P : Point) : Except ErrorKind Point := do
  let t1 ← clockMul P.x P.x C.p
  let t2 ← clockMul 3 t1 C.p
  let num ← clockAdd t2 C.a C.p
  let den ← clockMul 2 P.y C.p
  let lam ← clockDiv num den C.p
  let lam2 ← clockMul lam lam C.p
  let x2 ← clockMul 2 P.x C.p
  let x' ← clockSub lam2 x2 C.p
  let dx ← clockSub P.x x' C.p
  let ldx ← clockMul lam dx C.p
  let y' ← clockSub ldx P.y C.p
  return ⟨x', y'⟩

/-- padd (R185): equal raw x coordinates raise DegenerateGeometry before any field operation. -/
def padd (C : Curve) (P1 P2 : Point) : Except ErrorKind Point := do
  if P1.x = P2.x then throw .degenerateGeometry
  let dy ← clockSub P2.y P1.y C.p
  let dx ← clockSub P2.x P1.x C.p
  let lam ← clockDiv dy dx C.p
  let lam2 ← clockMul lam lam C.p
  let u ← clockSub lam2 P1.x C.p
  let x3 ← clockSub u P2.x C.p
  let ex ← clockSub P1.x x3 C.p
  let lex ← clockMul lam ex C.p
  let y3 ← clockSub lex P1.y C.p
  return ⟨x3, y3⟩

/-- The recursion of psmul (R186). The fuel is at least k at every call and k strictly decreases, so the fuel is
used up only when k = 0, whose answer it is (log 14). -/
def psmulFrom (C : Curve) : Nat → Nat → Point → Except ErrorKind Point
  | 0, _, _ => .error .degenerateGeometry
  | fuel + 1, k, P =>
    if k = 0 then .error .degenerateGeometry
    else if k = 1 then .ok P
    else if k % 2 = 0 then
      match psmulFrom C fuel (k / 2) P with
      | .ok Q => pdbl C Q
      | .error e => .error e
    else
      match psmulFrom C fuel (k - 1) P with
      | .ok Q => padd C Q P
      | .error e => .error e

/-- psmul (R186): k = 0 raises DegenerateGeometry; the inner call is evaluated before the outer operation. -/
def psmul (C : Curve) (k : Nat) (P : Point) : Except ErrorKind Point :=
  psmulFrom C k k P

/-- The scan of R188 from bit i - 1 of k down to bit 0, with the point so far in Q. -/
def psmulScanFrom (C : Curve) (k : Nat) (P : Point) : Nat → Point → Except ErrorKind Point
  | 0, Q => .ok Q
  | i + 1, Q =>
    match pdbl C Q with
    | .error e => .error e
    | .ok Q2 =>
      if k.testBit i then
        match padd C Q2 P with
        | .error e => .error e
        | .ok Q3 => psmulScanFrom C k P i Q3
      else psmulScanFrom C k P i Q2

/-- R188: for k >= 1 of bit length L, the bits L - 2 down to 0, each a doubling and, for a 1, an addition. The
second description of psmul, which no step runs (log 18). -/
def psmulScan (C : Curve) (k : Nat) (P : Point) : Except ErrorKind Point :=
  psmulScanFrom C k P k.log2 P

/-! ### Commands -/

/-- A command whose result is a point (R24). -/
def pointResult (rd : Reg) (r : Except ErrorKind Point) (s : State) : Result :=
  s.commitReg rd (r.map .ofPoint)

/-- PGEN (R181). -/
def execPgen (rd : Reg) (s : State) : Result :=
  pointResult rd (.ok ⟨s.curve.gx, s.curve.gy⟩) s

/-- PMAKEU (R182): no check. -/
def execPmakeu (rd rs1 rs2 : Reg) (s : State) : Result :=
  pointResult rd (.ok ⟨(s.src1 rs1).u256, (s.src2 rs2).u256⟩) s

/-- PMAKE (R183). -/
def execPmake (rd rs1 rs2 : Reg) (s : State) : Result :=
  pointResult rd (pointCheck s.curve (s.src1 rs1).u256 (s.src2 rs2).u256) s

/-- PDBL (R184). -/
def execPdbl (rd rs1 : Reg) (s : State) : Result :=
  pointResult rd (pdbl s.curve (s.src1 rs1).point) s

/-- PADD (R185). -/
def execPadd (rd rs1 rs2 : Reg) (s : State) : Result :=
  pointResult rd (padd s.curve (s.src1 rs1).point (s.src2 rs2).point) s

/-- PMUL (R186): rs1 is the scalar, a 256-bit view; rs2 the point. -/
def execPmul (rd rs1 rs2 : Reg) (s : State) : Result :=
  pointResult rd (psmul s.curve (s.src1 rs1).u256 (s.src2 rs2).point) s

/-- PEQ (R187): equality of the raw coordinates. -/
def execPeq (rs1 rs2 : Reg) (s : State) : Result :=
  s.commitFlags (s.flags.setEquality (decide ((s.src1 rs1).point = (s.src2 rs2).point)))

end Sys2Proof.Machine
end

