-- ==== Sys2Proof/Machine/Dispatch.lean ====
section
/-! DEFINITION. What a command does when it completes: one arm per constructor of Instr, each a call of the
command's own meaning. -/

namespace Sys2Proof.Machine

def exec (i : Instr) (s : State) : Host.Outcome State Fault Refusal :=
  match i with
  -- unsigned family, 40_unsigned.md
  | .uzero256 rd => Sys2Proof.Machine.execUzero256 rd s
  | .uzero512 rd => Sys2Proof.Machine.execUzero512 rd s
  | .uone256 rd => Sys2Proof.Machine.execUone256 rd s
  | .uone512 rd => Sys2Proof.Machine.execUone512 rd s
  | .umax256 rd => Sys2Proof.Machine.execUmax256 rd s
  | .umax512 rd => Sys2Proof.Machine.execUmax512 rd s
  | .ufromu64_256 rd => Sys2Proof.Machine.execUfromu64_256 rd s
  | .ufromu64_512 rd => Sys2Proof.Machine.execUfromu64_512 rd s
  | .ufromi64_256 rd => Sys2Proof.Machine.execUfromi64_256 rd s
  | .ufromi64_512 rd => Sys2Proof.Machine.execUfromi64_512 rd s
  | .ufromu32_256 rd => Sys2Proof.Machine.execUfromu32_256 rd s
  | .ufromu32_512 rd => Sys2Proof.Machine.execUfromu32_512 rd s
  | .ufromi32_256 rd => Sys2Proof.Machine.execUfromi32_256 rd s
  | .ufromi32_512 rd => Sys2Proof.Machine.execUfromi32_512 rd s
  | .uwiden rd rs1 => Sys2Proof.Machine.execUwiden rd rs1 s
  | .unarrow rd rs1 => Sys2Proof.Machine.execUnarrow rd rs1 s
  | .uadd256 rd rs1 rs2 => Sys2Proof.Machine.execUadd256 rd rs1 rs2 s
  | .uadd512 rd rs1 rs2 => Sys2Proof.Machine.execUadd512 rd rs1 rs2 s
  | .usub256 rd rs1 rs2 => Sys2Proof.Machine.execUsub256 rd rs1 rs2 s
  | .usub512 rd rs1 rs2 => Sys2Proof.Machine.execUsub512 rd rs1 rs2 s
  | .umul256 rd rs1 rs2 => Sys2Proof.Machine.execUmul256 rd rs1 rs2 s
  | .umul512 rd rs1 rs2 => Sys2Proof.Machine.execUmul512 rd rs1 rs2 s
  | .udiv256 rd rs1 rs2 => Sys2Proof.Machine.execUdiv256 rd rs1 rs2 s
  | .udiv512 rd rs1 rs2 => Sys2Proof.Machine.execUdiv512 rd rs1 rs2 s
  | .ucmp256 rs1 rs2 => Sys2Proof.Machine.execUcmp256 rs1 rs2 s
  | .ucmp512 rs1 rs2 => Sys2Proof.Machine.execUcmp512 rs1 rs2 s
  | .udigits256 rd rs1 => Sys2Proof.Machine.execUdigits256 rd rs1 s
  | .udigits512 rd rs1 => Sys2Proof.Machine.execUdigits512 rd rs1 s
  | .uodd rs1 => Sys2Proof.Machine.execUodd rs1 s
  | .uparse256 => Sys2Proof.Machine.execUparse256 s
  | .uparse512 => Sys2Proof.Machine.execUparse512 s
  -- signed family, 41_signed.md
  | .sneg rd rs1 => Sys2Proof.Machine.execSneg rd rs1 s
  | .scmp rs1 rs2 => Sys2Proof.Machine.execScmp rs1 rs2 s
  | .sadd rd rs1 rs2 => Sys2Proof.Machine.execSadd rd rs1 rs2 s
  | .ssub rd rs1 rs2 => Sys2Proof.Machine.execSsub rd rs1 rs2 s
  | .smul rd rs1 rs2 => Sys2Proof.Machine.execSmul rd rs1 rs2 s
  | .sdiv rd rs1 rs2 => Sys2Proof.Machine.execSdiv rd rs1 rs2 s
  | .sfromu rd rs1 => Sys2Proof.Machine.execSfromu rd rs1 s
  | .sfromi64 rd => Sys2Proof.Machine.execSfromi64 rd s
  -- modular family, 42_modular.md
  | .madd rd rs1 rs2 rs3 => Sys2Proof.Machine.execMadd rd rs1 rs2 rs3 s
  | .msub rd rs1 rs2 rs3 => Sys2Proof.Machine.execMsub rd rs1 rs2 rs3 s
  | .mmul rd rs1 rs2 rs3 => Sys2Proof.Machine.execMmul rd rs1 rs2 rs3 s
  | .mdiv rd rs1 rs2 rs3 => Sys2Proof.Machine.execMdiv rd rs1 rs2 rs3 s
  | .minv rd rs1 rs3 => Sys2Proof.Machine.execMinv rd rs1 rs3 s
  -- curve family, 43_curve.md
  | .pgen rd => Sys2Proof.Machine.execPgen rd s
  | .pmakeu rd rs1 rs2 => Sys2Proof.Machine.execPmakeu rd rs1 rs2 s
  | .pmake rd rs1 rs2 => Sys2Proof.Machine.execPmake rd rs1 rs2 s
  | .pdbl rd rs1 => Sys2Proof.Machine.execPdbl rd rs1 s
  | .padd rd rs1 rs2 => Sys2Proof.Machine.execPadd rd rs1 rs2 s
  | .pmul rd rs1 rs2 => Sys2Proof.Machine.execPmul rd rs1 rs2 s
  | .peq rs1 rs2 => Sys2Proof.Machine.execPeq rs1 rs2 s

end Sys2Proof.Machine
end

