-- ==== Sys2Proof/Machine/Window.lean ====
section
/-! DEFINITION. The MMIO window (20_memory.md): the address map (R51, R52), the word each place reads as, and
the host's accesses MemRead (R55) and MemWrite (R56). -/

namespace Sys2Proof.Machine

/-! ### Addresses -/

/-- The offset from MAU_BASE an access goes to, if it falls in the window (R50, R51). -/
def HostAddr.offset? : HostAddr → Option Nat
  | .off o => if o < Config.windowSize then some o else none
  | .bus a =>
    if Config.mauBase ≤ a ∧ a - Config.mauBase < Config.windowSize then some (a - Config.mauBase) else none

/-- A place of the address map (R51). -/
inductive Region where
  | id
  | ctrl
  | status
  | cmd
  | flags
  | imm
  | signs
  | reserved
  /-- Limb l of register r (R52). -/
  | rf (r : Reg) (l : Fin 8)
deriving DecidableEq, Repr

/-- The place of the 64-bit word at an 8-byte-aligned offset below 0x800 (R51, R52). -/
def regionOf (off8 : Nat) : Region :=
  if 0x400 ≤ off8 then .rf (Fin.ofNat 16 ((off8 - 0x400) / 0x40)) (Fin.ofNat 8 (off8 % 0x40 / 8))
  else if off8 = 0x000 then .id
  else if off8 = 0x008 then .ctrl
  else if off8 = 0x010 then .status
  else if off8 = 0x018 then .cmd
  else if off8 = 0x020 then .flags
  else if off8 = 0x028 then .imm
  else if off8 = 0x030 then .signs
  else .reserved

/-- R53: 8 bytes at a multiple of 8, or 4 bytes at a multiple of 4; every other access is malformed. -/
def accessWellFormed (off n : Nat) : Bool :=
  (n == 8 && off % 8 == 0) || (n == 4 && off % 4 == 0)

/-! ### The word each place reads as (R55) -/

/-- ID (10_state.md R29): revision 1, 16 registers, 1 curve. -/
def idValue : BitVec 64 := 0x0000000000011001#64

/-- A one-bit field at bit i of a window word. -/
def bitAt (i : Nat) (b : Bool) : BitVec 64 := BitVec.setWidth 64 (BitVec.ofBool b) <<< i

/-- FLAGS as a word (R26): bits 0 LT, 1 EQ, 2 GT, 3 ODD. -/
def Flags.word (f : Flags) : BitVec 64 :=
  bitAt 0 f.lt ||| bitAt 1 f.eq ||| bitAt 2 f.gt ||| bitAt 3 f.odd

/-- CTRL as a word (R27): bit 0 IEN. -/
def ctrlWord (ien : Bool) : BitVec 64 := bitAt 0 ien

/-- STATUS as a word (R28): bits 0 BUSY, 1 DONE, 2 ERR, 3 REJ, 15:8 ERRCODE. -/
def Status.word (t : Status) : BitVec 64 :=
  bitAt 0 t.busy ||| bitAt 1 t.done ||| bitAt 2 t.err ||| bitAt 3 t.rej |||
    (BitVec.setWidth 64 t.errcode <<< 8)

/-- Limb l of a register (R20). -/
def limbOf (v : RegVal) (l : Fin 8) : Limb := v.extractLsb' (64 * l.val) 64

/-- A register with limb l replaced. -/
def setLimb (v : RegVal) (l : Fin 8) (w : Limb) : RegVal :=
  (v &&& ~~~ (BitVec.setWidth 512 (BitVec.allOnes 64) <<< (64 * l.val))) |||
    (BitVec.setWidth 512 w <<< (64 * l.val))

/-- The 64-bit word a place reads as. Reads have no side effects (R60). -/
def State.windowWord (s : State) : Region → BitVec 64
  | .id => idValue
  | .ctrl => ctrlWord s.ien
  | .status => s.status.word
  | .cmd => BitVec.setWidth 64 s.cmdr
  | .flags => s.flags.word
  | .imm => s.imm
  | .signs => BitVec.setWidth 64 s.nn
  | .reserved => 0#64
  | .rf r l => limbOf (s.reg r) l

/-! ### Host reads -/

/-- The n bytes MemRead(off, n) returns (R54, R55), lowest address first; zeros while rst is asserted
(70_reset R230). -/
def State.readBytes (s : State) (off n : Nat) : List Byte :=
  if s.rst || !accessWellFormed off n then List.replicate n 0#8
  else (List.range n).map fun k =>
    (s.windowWord (regionOf (off - off % 8))).extractLsb' (8 * (off % 8 + k)) 8

/-- MemRead: the bytes come out on the host port; nothing of the MAU changes (R60). -/
def State.hostRead (s : State) (off n : Nat) : State :=
  { s with readData := s.readBytes off n }

/-! ### Host writes -/

/-- The word `old` with the n bytes of v written at byte `lo` (R56): byte k of v to bits
8*(lo+k)+7 : 8*(lo+k), the other bits unchanged. -/
def mergeBytes (old : BitVec 64) (lo n v : Nat) : BitVec 64 :=
  let mask := BitVec.ofNat 64 (2 ^ (8 * n) - 1) <<< (8 * lo)
  (old &&& ~~~ mask) ||| ((BitVec.ofNat 64 v <<< (8 * lo)) &&& mask)

/-- A write of RF, SIGNS or IMM while BUSY is dropped and sets REJ; else it takes effect (R56, R61). -/
def State.unlessBusy (s : State) (t : State) : State :=
  if s.status.busy then s.reject else t

/-- The effect of a well-formed write of n bytes of v at byte `lo` of a place's word (R56). -/
def State.writeWord (s : State) (lo n v : Nat) : Region → State
  | .id => s
  | .flags => s
  | .reserved => s
  | .ctrl => { s with ien := (mergeBytes (ctrlWord s.ien) lo n v).getLsbD 0 }
  | .status => s.w1cStatus (mergeBytes 0#64 lo n v)
  | .cmd => if lo = 0 then s.offer (BitVec.ofNat 32 v) else s
  | .imm => s.unlessBusy { s with imm := mergeBytes s.imm lo n v }
  | .signs =>
    s.unlessBusy { s with nn := BitVec.setWidth 16 (mergeBytes (BitVec.setWidth 64 s.nn) lo n v) }
  | .rf r l =>
    s.unlessBusy
      { s with regs := s.regs.set r.val (setLimb (s.reg r) l (mergeBytes (limbOf (s.reg r) l) lo n v)) }

/-- MemWrite(off, n, v): ignored while rst is asserted (70_reset R230) and when malformed (R54). -/
def State.hostWrite (s : State) (off n v : Nat) : State :=
  if s.rst || !accessWellFormed off n then s
  else s.writeWord (off % 8) n v (regionOf (off - off % 8))

end Sys2Proof.Machine
end

