-- ==== Sys2Proof/Machine/Turn.lean ====
section
/-! DEFINITION. One event of the MAU: a host access, a level of rst, or the MAU's own step, the completion of
the command in flight (20_memory.md R59, R62; 70_reset R245). -/

namespace Sys2Proof.Machine

/-- The completion of a command word: an illegal word raises IllegalCommand before any operand is read
(60_exceptions.md R203); a legal one is run (30_encoding.md R91, R92). -/
def runWord (c : CmdWord) (s : State) : Result :=
  match decodeWord c with
  | .error _ => s.commitError .illegalCommand
  | .ok i => exec i s

/-- The MAU's own step: it completes the command in flight; an idle MAU waits (70_reset R230), and so does one
held in reset. -/
def mauTurn (s : State) : Result :=
  if s.rst then .next s
  else match s.inflight with
    | none => .next s
    | some f => runWord f.word s

/-- A host access at `addr`, whose effect in the window is `k` (log 7). -/
def atOffset (addr : HostAddr) (k : Nat → State) : Result :=
  match addr.offset? with
  | some off => .next (k off)
  | none => .fault .outsideWindow

/-- What one input does. -/
def serve (i : Input) (s : State) : Result :=
  match i with
  | .read addr n => atOffset addr fun off => s.hostRead off n
  | .write addr n v => atOffset addr fun off => s.hostWrite off n v
  | .rst level => .next (s.setRst level)
  | .mau => mauTurn s

/-- One event: the next input, and when none is waiting the MAU's own step, so that every command completes
(log 2). -/
def advance (s : State) : Result :=
  match s.inputs with
  | [] => mauTurn s
  | i :: rest => serve i { s with inputs := rest }

end Sys2Proof.Machine
end

