-- ==== Sys2Proof/Machine/Step.lean ====
section
/-! DEFINITION. The step of the MAU, and the host's way to place one command. -/

namespace Sys2Proof.Machine

/-- One step: one indivisible event (20_memory.md R59, R62). -/
def step (s : State) : Host.Outcome State Fault Refusal := advance s

/-- `s` with the command word `w` (its bits above `nbits` 0) accepted and the MAU's own step next, so that the
next step runs it (log 12). -/
def State.withFetchWord (s : State) (nbits w : Nat) : State :=
  s.loadCommand (BitVec.ofNat 32 (w % 2 ^ nbits))

end Sys2Proof.Machine
end

