-- ==== Sys2Proof/Machine/Division.lean ====
section
/-! DEFINITION. How the quotient of UDIV is found (40_unsigned.md R115): short division for a divisor of one
significant limb, Knuth's Algorithm D otherwise. Not architecturally visible: UDIV's meaning is the quotient of
R114, and no step runs this file (log 18). -/

namespace Sys2Proof.Machine

/-- 2^64, the radix of the limbs. -/
def limbBase : Nat := 2 ^ 64

/-! ### Short division -/

/-- Limbs n - 1 down to 0 of `a` divided by the one-limb divisor `d`, with running remainder `rem` (below d, so
the two-limb number formed from it fits 128 bits) and the quotient limbs found so far in `q`. -/
def shortDivideFrom (a d : Nat) : Nat → Nat → Nat → Nat
  | 0, _, q => q
  | n + 1, rem, q =>
    let cur := rem * limbBase + limb n a
    shortDivideFrom a d n (cur % d) (q * limbBase + cur / d)

/-- Short division of a W-bit value, most significant limb first. -/
def shortDivide (W : Width) (a d : Nat) : Nat := shortDivideFrom a d W.limbs 0 0

/-! ### Algorithm D -/

/-- The shift that makes the divisor's leading limb at least 2^63; `n` is the divisor's digit count. -/
def normalShift (n b : Nat) : Nat := 63 - (limb (n - 1) b).log2

/-- Correct the estimate q (with remainder r of the two leading limbs by v1) against the divisor's second limb
v2 and the next remainder limb u3; the test is made at most twice. -/
def correctDigit (v1 v2 u3 : Nat) : Nat → Nat → Nat → Nat
  | 0, q, _ => q
  | k + 1, q, r =>
    if (limbBase ≤ q ∨ r * limbBase + u3 < q * v2) ∧ r < limbBase then
      correctDigit v1 v2 u3 k (q - 1) (r + v1)
    else q

/-- One quotient digit of `cur` (n + 1 limbs) by the normalised divisor `v` (n limbs): the estimate from the
two leading limbs, its correction, and the decrement that goes with adding back on underflow. -/
def quotientDigit (n v cur : Nat) : Nat :=
  let top := cur / limbBase ^ (n - 1)
  let v1 := v / limbBase ^ (n - 1)
  let v2 := v / limbBase ^ (n - 2) % limbBase
  let u3 := cur / limbBase ^ (n - 2) % limbBase
  let q := correctDigit v1 v2 u3 2 (top / v1) (top % v1)
  if cur < q * v then q - 1 else q

/-- Digits j - 1 down to 0 of the quotient of `u` by `v`, with running remainder `rem` and the digits found so
far in `q`. -/
def algorithmDFrom (n u v : Nat) : Nat → Nat → Nat → Nat
  | 0, _, q => q
  | j + 1, rem, q =>
    let cur := rem * limbBase + limb j u
    let d := quotientDigit n v cur
    algorithmDFrom n u v j (cur - d * v) (q * limbBase + d)

/-- Algorithm D for a divisor of n >= 2 significant limbs: normalise, then one quotient digit per step. -/
def algorithmD (W : Width) (a b : Nat) : Nat :=
  let n := digits W b
  let sh := normalShift n b
  let u := a * 2 ^ sh
  let v := b * 2 ^ sh
  let steps := W.limbs - n + 1
  algorithmDFrom n u v steps (u / limbBase ^ steps) 0

/-- The division of R115 on W-bit values: the path is chosen by the divisor's digit count. -/
def divideByLimbs (W : Width) (a b : Nat) : Except ErrorKind Nat :=
  if b = 0 then .error .divideByZero
  else if digits W b = 1 then .ok (shortDivide W a b)
  else .ok (algorithmD W a b)

end Sys2Proof.Machine
end

