-- ==== Sys2Proof/Machine/HostNotation.lean ====
section
/-! DEFINITION. Host program notation and the pseudo-instructions (30_encoding.md R88, R89) as the host accesses
they stand for. The host's control flow is host software (10_state.md R30), so WAIT is given by the number of
polls that still read BUSY = 1. -/

namespace Sys2Proof.Machine.HostOp

/-- WR off, v: MemWrite(off, 8, v). -/
def wr (off v : Nat) : Input := .write (.off off) 8 v

/-- RD off: MemRead(off, 8). -/
def rd (off : Nat) : Input := .read (.off off) 8

/-- WAIT, the command completing after `polls` reads of STATUS; the last read finds BUSY clear. -/
def wait (polls : Nat) : List Input := List.replicate polls (rd 0x010) ++ [.mau, rd 0x010]

/-- EXEC <command>: the CMD write, then WAIT. -/
def run (polls : Nat) (i : Instr) : List Input := wr 0x018 (encode i).toNat :: wait polls

/-- The offset of limb l of register r (20_memory.md R52). -/
def limbOffset (r : Reg) (l : Nat) : Nat := 0x400 + 0x40 * r.val + 8 * l

/-- LDR rN, v. -/
def ldr (r : Reg) (v : Nat) : List Input := (List.range 8).map fun l => wr (limbOffset r l) (limb l v)

/-- STR rN: the eight reads. -/
def str (r : Reg) : List Input := (List.range 8).map fun l => rd (limbOffset r l)

/-- LI.256 rN, v. -/
def li256 (polls : Nat) (r : Reg) (v : Nat) : List Input := wr 0x028 v :: run polls (.ufromu64_256 r)

/-- LI.512 rN, v. -/
def li512 (polls : Nat) (r : Reg) (v : Nat) : List Input := wr 0x028 v :: run polls (.ufromu64_512 r)

/-- UMOV.512 rD, rS. -/
def umov512 (polls : Nat) (d r : Reg) : List Input := run polls (.sfromu d r)

/-- UMOV.256 rD, rS. -/
def umov256 (polls : Nat) (d r : Reg) : List Input := run polls (.uwiden d r)

/-- MSQR rD, rS, rP. -/
def msqr (polls : Nat) (d r p : Reg) : List Input := run polls (.mmul d r r p)

/-- CLRERR. -/
def clrerr : List Input := [wr 0x010 0x4]

end Sys2Proof.Machine.HostOp
end

