-- ==== Sys2Proof/Safety.lean ====
section
/-! DEFINITION. The terms the claims use: the machine invariant, what a completed command may change, a host
access, the end of a run, and a valid curve. -/

namespace Sys2Proof.Machine

/-! ### The invariant every step keeps -/

/-- What holds of the state between steps. The status part is 10_state.md R34; the rest says what the hidden
state is (R32, 30_encoding.md R91) and what a machine held in reset looks like (70_reset R230, log 5). -/
structure State.Inv (s : State) : Prop where
  /-- BUSY is 1 exactly while a command is in flight. -/
  busy_iff : s.status.busy = s.inflight.isSome
  /-- BUSY = 1 implies ERR = 0 and DONE = 0 (R34). -/
  busy_clear : s.status.busy = true → s.status.err = false ∧ s.status.done = false
  /-- ERR = 0 implies ERRCODE = 0 (R34). -/
  no_err_code : s.status.err = false → s.status.errcode = 0#8
  /-- ERR = 1 comes with one of the codes 1 to 7 (60_exceptions.md R200). -/
  err_code : s.status.err = true → 1 ≤ s.status.errcode.toNat ∧ s.status.errcode.toNat ≤ 7
  /-- While a command is in flight its snapshot still equals the registers it was taken from, and CMDR is its
  word: writes that would change them are dropped (20_memory.md R61). -/
  snapshot : ∀ f, s.inflight = some f → f = s.snapshot f.word ∧ s.cmdr = f.word
  /-- At most one of LT, EQ, GT is 1 (R26). -/
  flags_one : (s.flags.lt && s.flags.eq) = false ∧ (s.flags.lt && s.flags.gt) = false ∧
    (s.flags.eq && s.flags.gt) = false
  /-- While rst is asserted every state element has its reset value: the model's reading (log 5) of R230 and R231,
  which give the values when rst is deasserted. -/
  in_reset : s.rst = true →
    s = { State.reset with curve := s.curve, rst := true, inputs := s.inputs, readData := s.readData }

/-! ### What a completed command changes -/

/-- What every completion leaves alone: CURVE, IMM, CTRL, CMDR, the reset input, the inputs and the read port, and REJ;
and what it always does: nothing is in flight, BUSY = 0, DONE = 1. -/
structure Settled (s t : State) : Prop where
  curve : t.curve = s.curve
  imm : t.imm = s.imm
  ien : t.ien = s.ien
  cmdr : t.cmdr = s.cmdr
  rst : t.rst = s.rst
  inputs : t.inputs = s.inputs
  readData : t.readData = s.readData
  rej : t.status.rej = s.status.rej
  inflight : t.inflight = none
  busy : t.status.busy = false
  done : t.status.done = true

/-- A success leaves ERR and ERRCODE alone. -/
structure Succeeded (s t : State) : Prop extends Settled s t where
  err : t.status.err = s.status.err
  errcode : t.status.errcode = s.status.errcode

/-- `t` is `s` after a success whose Writes are R[rd] = v and NN[rd] = nn: every other register and tag, and
FLAGS, are unchanged. -/
structure WroteReg (s t : State) (rd : Reg) (v : Nat) (nn : Bool) : Prop extends Succeeded s t where
  value : (t.reg rd).toNat = v
  tag : t.tag rd = nn
  others : ∀ r, r ≠ rd → t.reg r = s.reg r ∧ t.tag r = s.tag r
  flags : t.flags = s.flags

/-- `t` is `s` after a success whose Writes are FLAGS = f: every register and tag is unchanged. -/
structure WroteFlags (s t : State) (f : Flags) : Prop extends Succeeded s t where
  flags : t.flags = f
  regs : ∀ r, t.reg r = s.reg r ∧ t.tag r = s.tag r

/-- `t` is `s` after an error completion with this code: no register, tag, flag or IMM bit changed. -/
structure Raised (s t : State) (code : Nat) : Prop extends Settled s t where
  err : t.status.err = true
  errcode : t.status.errcode.toNat = code
  flags : t.flags = s.flags
  regs : ∀ r, t.reg r = s.reg r ∧ t.tag r = s.tag r

/-- The destination register of a command, if it has one (30_encoding.md R82: shapes with RD). -/
def destOf : Instr → Option Reg
  | .uzero256 rd | .uzero512 rd | .uone256 rd | .uone512 rd | .umax256 rd | .umax512 rd => some rd
  | .ufromu64_256 rd | .ufromu64_512 rd | .ufromi64_256 rd | .ufromi64_512 rd => some rd
  | .ufromu32_256 rd | .ufromu32_512 rd | .ufromi32_256 rd | .ufromi32_512 rd => some rd
  | .uwiden rd _ | .unarrow rd _ | .udigits256 rd _ | .udigits512 rd _ => some rd
  | .uadd256 rd _ _ | .uadd512 rd _ _ | .usub256 rd _ _ | .usub512 rd _ _ => some rd
  | .umul256 rd _ _ | .umul512 rd _ _ | .udiv256 rd _ _ | .udiv512 rd _ _ => some rd
  | .ucmp256 _ _ | .ucmp512 _ _ | .uodd _ | .uparse256 | .uparse512 => none
  | .sneg rd _ | .sadd rd _ _ | .ssub rd _ _ | .smul rd _ _ | .sdiv rd _ _ => some rd
  | .sfromu rd _ | .sfromi64 rd => some rd
  | .scmp _ _ => none
  | .madd rd _ _ _ | .msub rd _ _ _ | .mmul rd _ _ _ | .mdiv rd _ _ _ | .minv rd _ _ => some rd
  | .pgen rd | .pmakeu rd _ _ | .pmake rd _ _ | .pdbl rd _ | .padd rd _ _ | .pmul rd _ _ => some rd
  | .peq _ _ => none

/-- The comparison and parity commands, the only ones that write FLAGS (10_state.md R26). -/
def writesFlags : Instr → Bool
  | .ucmp256 _ _ | .ucmp512 _ _ | .uodd _ | .scmp _ _ | .peq _ _ => true
  | .uzero256 _ | .uzero512 _ | .uone256 _ | .uone512 _ | .umax256 _ | .umax512 _ => false
  | .ufromu64_256 _ | .ufromu64_512 _ | .ufromi64_256 _ | .ufromi64_512 _ => false
  | .ufromu32_256 _ | .ufromu32_512 _ | .ufromi32_256 _ | .ufromi32_512 _ => false
  | .uwiden _ _ | .unarrow _ _ | .udigits256 _ _ | .udigits512 _ _ => false
  | .uadd256 _ _ _ | .uadd512 _ _ _ | .usub256 _ _ _ | .usub512 _ _ _ => false
  | .umul256 _ _ _ | .umul512 _ _ _ | .udiv256 _ _ _ | .udiv512 _ _ _ => false
  | .uparse256 | .uparse512 => false
  | .sneg _ _ | .sadd _ _ _ | .ssub _ _ _ | .smul _ _ _ | .sdiv _ _ _ => false
  | .sfromu _ _ | .sfromi64 _ => false
  | .madd _ _ _ _ | .msub _ _ _ _ | .mmul _ _ _ _ | .mdiv _ _ _ _ | .minv _ _ _ => false
  | .pgen _ | .pmakeu _ _ _ | .pmake _ _ _ | .pdbl _ _ | .padd _ _ _ | .pmul _ _ _ => false

/-! ### Host accesses and runs -/

/-- The input is a read or a write of the window. -/
def Input.isAccess : Input → Bool
  | .read a _ | .write a _ _ => a.offset?.isSome
  | .rst _ | .mau => false

/-- The input is one of the accesses a host program is made of (70_reset R248; 30_encoding.md R88), wherever it
goes; a level of rst and a turn of the MAU are none (log 23). -/
def Input.isHostAccess : Input → Bool
  | .read _ _ | .write _ _ _ => true
  | .rst _ | .mau => false

/-- A host program run has ended (70_reset R248): the host has made its last access, so that none waits, and
BUSY = 0. Levels of rst and turns of the MAU may still wait. -/
def State.runEnded (s : State) : Prop := (∀ i ∈ s.inputs, i.isHostAccess = false) ∧ s.status.busy = false

/-- The run from `s` ends in `t`, its end state: the first state of the run in which R248's condition holds, whatever
comes after it (DEDUCED, log 23). -/
def State.RunEndsIn (s t : State) : Prop :=
  ∃ n, Host.Core.run Sys2Proof.core n s = .next t ∧ t.runEnded ∧
    ∀ m, m < n → ∀ u, Host.Core.run Sys2Proof.core m s = .next u → ¬ u.runEnded

/-- A run that ended with every command a success and every access taken (R248). -/
def State.endedClean (s : State) : Prop :=
  s.runEnded ∧ s.status.err = false ∧ s.status.rej = false

/-- What a run's end shows (R248): R0..R15, NN, FLAGS, IMM, CTRL, STATUS, CMDR. -/
structure Observation where
  regs   : Vector RegVal 16
  nn     : BitVec 16
  flags  : Flags
  imm    : BitVec 64
  ien    : Bool
  status : Status
  cmdr   : CmdWord
deriving DecidableEq, Repr

/-- The observation of a state (R248). -/
def State.observe (s : State) : Observation :=
  ⟨s.regs, s.nn, s.flags, s.imm, s.ien, s.status, s.cmdr⟩

end Sys2Proof.Machine

namespace Sys2Proof

/-- The constraints on a curve configuration (43_curve.md R180); a configuration that breaks them is outside
every claim about curve geometry (93_implementation_defined.md I15). DESIGN CHOICE (log 24): `gen_lt`, that the
generator's coordinates are below p, is the model's addition; R180 and I15 ask only that G satisfy the curve
equation. -/
structure Curve.Valid (C : Curve) : Prop where
  prime : Nat.Prime C.p
  large : 3 < C.p
  a_lt : C.a < C.p
  b_lt : C.b < C.p
  /-- The model's own premise (log 24). -/
  gen_lt : C.gx < C.p ∧ C.gy < C.p
  gen_on : C.gy ^ 2 % C.p = (C.gx ^ 3 + C.a * C.gx + C.b) % C.p

end Sys2Proof
end

