-- ==== Sys2Proof/Certificates/Slice0/Obligations.lean ====
section
/-! DEFINITION. The statements for the provers. Each is written from the numbered rules of spec/; the helper
definitions at the head restate the spec's terms without the model's own functions. -/

set_option exponentiation.threshold 600

open Sys2Proof Sys2Proof.Machine

namespace Sys2Proof.Claim

/-! ### Terms of the statements -/

/-- Bits 255:0 of an operand as a natural (10_state.md R23, U256). -/
def lo256 (o : Operand) : Nat := o.val.toNat % 2 ^ 256

/-- Bits 511:256 of an operand as a natural (R23, the y of a point). -/
def hi256 (o : Operand) : Nat := o.val.toNat / 2 ^ 256

/-- All 512 bits of an operand as a natural (R23, U512). -/
def all512 (o : Operand) : Nat := o.val.toNat

/-- The integer a signed operand stands for (00_scope.md R13). -/
def intOf (o : Operand) : Int := if o.nn then (o.val.toNat : Int) else -(o.val.toNat : Int)

/-- The word with these fields (30_encoding.md R87) is this command. -/
def Decodes (op rd rs1 rs2 rs3 : Nat) (i : Instr) : Prop :=
  decodeWord (assemble op rd rs1 rs2 rs3) = .ok i

/-- FLAGS with LT, EQ, GT from the order of two integers and ODD unchanged (10_state.md R26). -/
def orderFlags (f : Flags) (a b : Int) : Flags :=
  { lt := decide (a < b), eq := decide (a = b), gt := decide (b < a), odd := f.odd }

/-- Exactly one of LT, EQ, GT is 1. -/
def ExactlyOne (f : Flags) : Prop := f.lt.toNat + f.eq.toNat + f.gt.toNat = 1

/-- match and mask of the rows 0x10 to 0x1F. -/
def tableConstructors : List (CmdWord × CmdWord) :=
  [ (0x00000010#32, 0xFFFFF0FF#32), (0x00000011#32, 0xFFFFF0FF#32), (0x00000012#32, 0xFFFFF0FF#32),
    (0x00000013#32, 0xFFFFF0FF#32), (0x00000014#32, 0xFFFFF0FF#32), (0x00000015#32, 0xFFFFF0FF#32),
    (0x00000016#32, 0xFFFFF0FF#32), (0x00000017#32, 0xFFFFF0FF#32), (0x00000018#32, 0xFFFFF0FF#32),
    (0x00000019#32, 0xFFFFF0FF#32), (0x0000001A#32, 0xFFFFF0FF#32), (0x0000001B#32, 0xFFFFF0FF#32),
    (0x0000001C#32, 0xFFFFF0FF#32), (0x0000001D#32, 0xFFFFF0FF#32), (0x0000001E#32, 0xFFFF00FF#32),
    (0x0000001F#32, 0xFFFF00FF#32) ]

/-- match and mask of the rows 0x20 to 0x2F. -/
def tableUnsigned : List (CmdWord × CmdWord) :=
  [ (0x00000020#32, 0xFFF000FF#32), (0x00000021#32, 0xFFF000FF#32), (0x00000022#32, 0xFFF000FF#32),
    (0x00000023#32, 0xFFF000FF#32), (0x00000024#32, 0xFFF000FF#32), (0x00000025#32, 0xFFF000FF#32),
    (0x00000026#32, 0xFFF000FF#32), (0x00000027#32, 0xFFF000FF#32), (0x00000028#32, 0xFFF00FFF#32),
    (0x00000029#32, 0xFFF00FFF#32), (0x0000002A#32, 0xFFFF00FF#32), (0x0000002B#32, 0xFFFF00FF#32),
    (0x0000002C#32, 0xFFFF0FFF#32), (0x0000002E#32, 0xFFFFFFFF#32), (0x0000002F#32, 0xFFFFFFFF#32) ]

/-- match and mask of the rows 0x40 to 0x47. -/
def tableSigned : List (CmdWord × CmdWord) :=
  [ (0x00000040#32, 0xFFFF00FF#32), (0x00000041#32, 0xFFF00FFF#32), (0x00000042#32, 0xFFF000FF#32),
    (0x00000043#32, 0xFFF000FF#32), (0x00000044#32, 0xFFF000FF#32), (0x00000045#32, 0xFFF000FF#32),
    (0x00000046#32, 0xFFFF00FF#32), (0x00000047#32, 0xFFFFF0FF#32) ]

/-- match and mask of the rows 0x50 to 0x54. -/
def tableModular : List (CmdWord × CmdWord) :=
  [ (0x00000050#32, 0xFF0000FF#32), (0x00000051#32, 0xFF0000FF#32), (0x00000052#32, 0xFF0000FF#32),
    (0x00000053#32, 0xFF0000FF#32), (0x00000054#32, 0xFF0F00FF#32) ]

/-- match and mask of the rows 0x60 to 0x66. -/
def tableCurve : List (CmdWord × CmdWord) :=
  [ (0x00000060#32, 0xFFFFF0FF#32), (0x00000061#32, 0xFFF000FF#32), (0x00000062#32, 0xFFF000FF#32),
    (0x00000063#32, 0xFFFF00FF#32), (0x00000064#32, 0xFFF000FF#32), (0x00000065#32, 0xFFF000FF#32),
    (0x00000066#32, 0xFFF00FFF#32) ]

/-- match and mask of the 51 rows of opcode_table.json. -/
def tableRows : List (CmdWord × CmdWord) :=
  tableConstructors ++ tableUnsigned ++ tableSigned ++ tableModular ++ tableCurve

/-- The reserved opcodes as 30_encoding.md R85 lists them. -/
def ReservedOp (op : Nat) : Prop :=
  op ≤ 0x0F ∨ op = 0x2D ∨ (0x30 ≤ op ∧ op ≤ 0x3F) ∨ (0x48 ≤ op ∧ op ≤ 0x4F) ∨ (0x55 ≤ op ∧ op ≤ 0x5F) ∨ 0x67 ≤ op

/-- The word `Wd` at an 8-byte-aligned offset of the window (20_memory.md R51, R52, R55), as a natural. -/
def mapWord (s : State) (off8 : Nat) : Nat :=
  if off8 = 0x000 then 0x11001
  else if off8 = 0x008 then s.ien.toNat
  else if off8 = 0x010 then s.status.busy.toNat + 2 * s.status.done.toNat + 4 * s.status.err.toNat +
    8 * s.status.rej.toNat + 256 * s.status.errcode.toNat
  else if off8 = 0x018 then s.cmdr.toNat
  else if off8 = 0x020 then s.flags.lt.toNat + 2 * s.flags.eq.toNat + 4 * s.flags.gt.toNat + 8 * s.flags.odd.toNat
  else if off8 = 0x028 then s.imm.toNat
  else if off8 = 0x030 then s.nn.toNat
  else if 0x400 ≤ off8 then
    (s.reg (Fin.ofNat 16 ((off8 - 0x400) / 0x40))).toNat / 2 ^ (64 * (off8 % 0x40 / 8)) % 2 ^ 64
  else 0

/-- A well-formed host access (R53). -/
def WellFormedAccess (off n : Nat) : Prop := (n = 8 ∧ off % 8 = 0) ∨ (n = 4 ∧ off % 4 = 0)

/-- Byte j of a register: bits 8*j+7 : 8*j (R57). -/
def byteOf (v : RegVal) (j : Nat) : Nat := v.toNat / 2 ^ (8 * j) % 2 ^ 8

/-- The sum of two signed operands by the cases of 41_signed.md R142: magnitude m and tag nn of the result from
(ma, na) and (mb, nb). -/
def SignedSum (ma : Nat) (na : Bool) (mb : Nat) (nb : Bool) (m : Nat) (nn : Bool) : Prop :=
  (ma = 0 → m = mb ∧ nn = nb) ∧
  (ma ≠ 0 → mb = 0 → m = ma ∧ nn = na) ∧
  (ma ≠ 0 → mb ≠ 0 → na = nb → m = (ma + mb) % 2 ^ 512 ∧ nn = na) ∧
  (ma ≠ 0 → mb ≠ 0 → na ≠ nb → mb ≤ ma → m = ma - mb ∧ nn = na) ∧
  (ma ≠ 0 → mb ≠ 0 → na ≠ nb → ma < mb → m = mb - ma ∧ nn = nb)

/-- a - b by one borrow of p, as 42_modular.md R162 gives it: a - b if a >= b; p - (b - a) if b - a <= p; else none,
where the command reports WidthOverflow. -/
def borrow (a b p : Nat) : Option Nat :=
  if b ≤ a then some (a - b) else if b - a ≤ p then some (p - (b - a)) else none

/-- The command ends in this point, or, where a subtraction overflowed, in WidthOverflow. -/
def EndsIn (s t : State) (rd : Reg) (r : Option (Nat × Nat)) : Prop :=
  (r = none → Raised s t 5) ∧ ∀ x y, r = some (x, y) → WroteReg s t rd (y * 2 ^ 256 + x) true

/-- The codes each command can report (60_exceptions.md R200, the column of commands). -/
def mayReport : Instr → List Nat
  | .uzero256 _ | .uzero512 _ | .uone256 _ | .uone512 _ | .umax256 _ | .umax512 _ => []
  | .ufromu64_256 _ | .ufromu64_512 _ | .ufromi64_256 _ | .ufromi64_512 _ => []
  | .ufromu32_256 _ | .ufromu32_512 _ | .ufromi32_256 _ | .ufromi32_512 _ => []
  | .uwiden _ _ => []
  | .unarrow _ _ => [5]
  | .uadd256 _ _ _ | .uadd512 _ _ _ | .usub256 _ _ _ | .usub512 _ _ _ | .umul256 _ _ _ | .umul512 _ _ _ => []
  | .udiv256 _ _ _ | .udiv512 _ _ _ => [1]
  | .ucmp256 _ _ | .ucmp512 _ _ | .udigits256 _ _ | .udigits512 _ _ | .uodd _ => []
  | .uparse256 | .uparse512 => [4]
  | .sneg _ _ | .scmp _ _ | .sadd _ _ _ | .ssub _ _ _ | .smul _ _ _ | .sfromu _ _ | .sfromi64 _ => []
  | .sdiv _ _ _ => [1]
  | .madd _ _ _ _ | .msub _ _ _ _ => [5]
  | .mmul _ _ _ _ => [1]
  | .mdiv _ _ _ _ | .minv _ _ _ => [1, 2]
  | .pgen _ | .pmakeu _ _ _ | .peq _ _ => []
  | .pmake _ _ _ => [6]
  | .pdbl _ _ => [1, 2, 5]
  | .padd _ _ _ | .pmul _ _ _ => [1, 2, 3, 5]

end Sys2Proof.Claim

open Sys2Proof.Claim

/-! ### Reset, invariant -/

/-- R231: every state element after reset. -/
def Obligations.ResetLeavesTheSpecifiedValues : Prop :=
  (∀ r, State.reset.reg r = 0#512) ∧ (∀ r, State.reset.tag r = true) ∧ mapWord State.reset 0x030 = 0xFFFF ∧
  State.reset.imm = 0#64 ∧ State.reset.flags = ⟨false, false, false, false⟩ ∧ State.reset.ien = false ∧
  State.reset.status = ⟨false, false, false, false, 0#8⟩ ∧ State.reset.cmdr = 0#32 ∧
  State.reset.windowWord .id = 0x0000000000011001#64 ∧ State.reset.inflight = none ∧ State.reset.irq = false

/-- The state after reset satisfies the invariant. -/
def Obligations.ResetSatisfiesTheInvariant : Prop := State.reset.Inv

/-- Every step keeps the invariant of Safety.lean, from every state that has it, and leaves CURVE alone, from every
state (10_state.md R33, 20_memory.md R65). The invariant's clause that every element has its reset value while rst is
asserted is the model's reading, log 5; R230 and R231 give the values when rst is deasserted. -/
def Obligations.EveryStepKeepsTheInvariant : Prop :=
  ∀ s t : State, step s = .next t → t.curve = s.curve ∧ (s.Inv → t.Inv)

/-- R34. -/
def Obligations.StatusAndFlagRelationsAreKept : Prop :=
  (∀ s t : State, s.Inv → step s = .next t →
    (t.status.busy = true → t.status.err = false ∧ t.status.done = false) ∧
    (t.status.err = false → t.status.errcode = 0#8)) ∧
  (∀ (s : State) (a b : Reg), ∃ t, exec (.ucmp256 a b) s = .next t ∧ ExactlyOne t.flags) ∧
  (∀ (s : State) (a b : Reg), ∃ t, exec (.ucmp512 a b) s = .next t ∧ ExactlyOne t.flags) ∧
  (∀ (s : State) (a b : Reg), ∃ t, exec (.scmp a b) s = .next t ∧ ExactlyOne t.flags)

/-! ### Encoding -/

/-- Decoding the encoding of any command gives it back, at every value of every register field. -/
def Obligations.DecodingAnEncodedCommandGivesItBack : Prop :=
  ∀ i : Instr, decodeWord (encode i) = .ok i

/-- A word that decodes to a command is that command's encoding: no bit of the word is dropped. -/
def Obligations.EncodingADecodedWordGivesItBack : Prop :=
  ∀ (c : CmdWord) (i : Instr), decodeWord c = .ok i → encode i = c

/-- R86, with the match and mask of opcode_table.json: a word is legal exactly when it matches one row, and it
never matches two. -/
def Obligations.EveryWordMatchesOneTableRowOrIsIllegal : Prop :=
  ∀ c : CmdWord, (tableRows.filter fun r => c &&& r.2 == r.1).length =
    (match decodeWord c with
      | .ok _ => 1
      | .error _ => 0)

/-- R85, R203: exactly the listed words are illegal; an illegal word is accepted like any other, no operand is
copied for it, and it completes with code 7, writing no register, tag, flag or IMM bit. -/
def Obligations.IllegalWordsCompleteWithIllegalCommand : Prop :=
  (∀ c : CmdWord, (∃ e, decodeWord c = .error e) ↔
    (ReservedOp (c.toNat % 256) ∨ c.toNat / 2 ^ 24 ≠ 0 ∨
      ∃ row ∈ tableRows, c.toNat % 256 = row.1.toNat % 256 ∧ c &&& row.2 ≠ row.1)) ∧
  (∀ (s : State) (c : CmdWord), s.status.busy = false → s.status.err = false → s.offer c = s.accept c) ∧
  (∀ (s : State) (c : CmdWord), (∃ e, decodeWord c = .error e) → s.snapshot c = ⟨c, none, none, none, none⟩) ∧
  (∀ (s : State) (f : InFlight), s.rst = false → s.inflight = some f → (∃ e, decodeWord f.word = .error e) →
    ∃ t, mauTurn s = .next t ∧ Raised s t 7)

/-- Words of the spec's examples (R87 and the Example of each command's rule), one or more of each family. -/
def Obligations.ExampleWordsDecode : Prop :=
  decodeWord 0x00021320#32 = .ok (.uadd256 3 1 2) ∧ decodeWord 0x00000418#32 = .ok (.ufromi64_256 4) ∧
  decodeWord 0x0000121E#32 = .ok (.uwiden 2 1) ∧ decodeWord 0x00021028#32 = .ok (.ucmp256 1 2) ∧
  decodeWord 0x0000102C#32 = .ok (.uodd 1) ∧ decodeWord 0x0000002E#32 = .ok .uparse256 ∧
  decodeWord 0x00001240#32 = .ok (.sneg 2 1) ∧ decodeWord 0x00021345#32 = .ok (.sdiv 3 1 2) ∧
  decodeWord 0x00F21350#32 = .ok (.madd 3 1 2 15) ∧ decodeWord 0x00F01254#32 = .ok (.minv 2 1 15) ∧
  decodeWord 0x00000160#32 = .ok (.pgen 1) ∧ decodeWord 0x00001263#32 = .ok (.pdbl 2 1) ∧
  decodeWord 0x00021366#32 = .error .unusedFieldSet ∧ decodeWord 0x00000000#32 = .error .reservedOpcode

/-! ### The step, acceptance, and what may interfere -/

/-- The MAU's own step runs the decoded command of the word in flight: when no input is waiting, and when the
next input gives the MAU its turn. That the turn comes as an input is the model's choice (log 1), and that it is
taken when no input waits is its reading of R245's weak fairness (log 2). -/
def Obligations.StepRunsTheDecodedCommand : Prop :=
  ∀ (s : State) (f : InFlight) (i : Instr), s.rst = false → s.inflight = some f → decodeWord f.word = .ok i →
    (s.inputs = [] → step s = exec i s) ∧
    (∀ rest, s.inputs = .mau :: rest → step s = exec i { s with inputs := rest })

/-- R90: a CMD write (4 or 8 bytes at 0x018) while BUSY = 1 or ERR = 1 only sets REJ; else CMDR takes the word,
DONE is cleared, BUSY is set, and the snapshot of R91 is in flight. A 4-byte write at 0x01C is no CMD write and is
ignored, in every state (20_memory.md R56). -/
def Obligations.CommandWriteIsAcceptedOrRejected : Prop :=
  (∀ (s : State) (v : Nat) (rest : List Input), s.inputs = .write (.off 0x01C) 4 v :: rest →
    step s = .next { s with inputs := rest }) ∧
  ∀ (s : State) (n v : Nat) (rest : List Input), s.rst = false → (n = 4 ∨ n = 8) →
    s.inputs = .write (.off 0x018) n v :: rest →
    ((s.status.busy = true ∨ s.status.err = true) →
      step s = .next { s with inputs := rest, status := { s.status with rej := true } }) ∧
    (s.status.busy = false → s.status.err = false →
      step s = .next { s with
        inputs := rest
        cmdr := BitVec.ofNat 32 v
        status := { s.status with done := false, busy := true }
        inflight := some (s.snapshot (BitVec.ofNat 32 v)) })

/-- R91 as it shows: run on the snapshot taken at acceptance, every command computes from the registers, tags and
IMM that stood then (an idle machine's `exec` reads those directly, log 11). -/
def Obligations.AcceptedCommandComputesFromTheRegisters : Prop :=
  ∀ (s : State) (i : Instr), s.inflight = none →
    ∃ t u, exec i (s.accept (encode i)) = .next t ∧ exec i s = .next u ∧
      t.regs = u.regs ∧ t.nn = u.nn ∧ t.flags = u.flags ∧ t.imm = u.imm ∧
      t.status.err = u.status.err ∧ t.status.errcode = u.status.errcode

/-- Host accesses between acceptance and completion, any number of them, cannot change what the command commits
(R61, R91): the registers, tags, flags, IMM, CMDR and error of the completion are those of an undisturbed one. -/
def Obligations.HostAccessesWhileBusyCannotChangeTheResult : Prop :=
  ∀ (s : State) (c : CmdWord) (accesses rest : List Input), s.rst = false → s.status.err = false →
    s.status.errcode = 0#8 → (∀ i ∈ accesses, i.isAccess = true) →
    ∃ t u, Host.Core.run Sys2Proof.core (accesses.length + 1)
        { s.accept c with inputs := accesses ++ .mau :: rest } = .next t ∧
      mauTurn (s.accept c) = .next u ∧ t.inputs = rest ∧
      t.regs = u.regs ∧ t.nn = u.nn ∧ t.flags = u.flags ∧ t.imm = u.imm ∧ t.cmdr = c ∧ t.inflight = none ∧
      t.status.busy = false ∧ t.status.done = true ∧ t.status.err = u.status.err ∧
      t.status.errcode = u.status.errcode

/-- Every command completes (R245). The bound is the model's, not the spec's: a command in flight completes by the
time the waiting inputs are used up (logs 1 and 2), if none of them is a reset and every access is to the window. -/
def Obligations.EveryCommandInFlightCompletes : Prop :=
  ∀ s : State, s.Inv → s.status.busy = true →
    (∀ i ∈ s.inputs, i.isAccess = true ∨ i = .mau) →
    ∃ k t, k ≤ s.inputs.length + 1 ∧ Host.Core.run Sys2Proof.core k s = .next t ∧ t.status.busy = false ∧
      t.status.done = true

/-! ### The window -/

/-- R55: a well-formed read returns the bytes of the map's word and has no other effect. -/
def Obligations.HostReadReturnsTheMapWord : Prop :=
  ∀ (s : State) (off n : Nat) (rest : List Input), s.rst = false → off < 0x800 → WellFormedAccess off n →
    s.inputs = .read (.off off) n :: rest →
    ∃ bytes : List Byte, step s = .next { s with inputs := rest, readData := bytes } ∧ bytes.length = n ∧
      ∀ k, k < n → (bytes[k]?).map BitVec.toNat =
        some (mapWord s (off - off % 8) / 2 ^ (8 * (off % 8 + k)) % 2 ^ 8)

/-- R54: a malformed write changes nothing, a malformed read returns zeros, and neither stops the machine. -/
def Obligations.MalformedAccessesAreHarmless : Prop :=
  ∀ (s : State) (off n v : Nat) (rest : List Input), off < 0x800 → ¬ WellFormedAccess off n →
    (s.inputs = .write (.off off) n v :: rest → step s = .next { s with inputs := rest }) ∧
    (s.inputs = .read (.off off) n :: rest →
      step s = .next { s with inputs := rest, readData := List.replicate n 0#8 })

/-- R52, R56, R57: a well-formed write to the register file of an idle MAU stores its bytes, little-endian, at
the bytes it addresses, and leaves every other byte of every register and all other state unchanged. -/
def Obligations.RegisterFileWriteStoresItsBytes : Prop :=
  ∀ (s : State) (off n v : Nat) (rest : List Input), s.rst = false → s.status.busy = false →
    0x400 ≤ off → off < 0x800 → WellFormedAccess off n → s.inputs = .write (.off off) n v :: rest →
    ∃ regs, step s = .next { s with inputs := rest, regs := regs } ∧
      ∀ (r : Reg) (j : Nat), j < 64 →
        byteOf regs[r.val] j =
          if off ≤ 0x400 + 0x40 * r.val + j ∧ 0x400 + 0x40 * r.val + j < off + n
          then v / 2 ^ (8 * (0x400 + 0x40 * r.val + j - off)) % 2 ^ 8
          else byteOf (s.reg r) j

/-- R58: two 4-byte writes to the halves of a limb leave what one 8-byte write leaves. -/
def Obligations.TwoHalfWritesEqualOneLimbWrite : Prop :=
  ∀ (s : State) (r : Reg) (l : Fin 8) (lo hi : Nat), lo < 2 ^ 32 → hi < 2 ^ 32 →
    (s.hostWrite (0x400 + 0x40 * r.val + 8 * l.val) 4 lo).hostWrite (0x404 + 0x40 * r.val + 8 * l.val) 4 hi =
      s.hostWrite (0x400 + 0x40 * r.val + 8 * l.val) 8 (lo + 2 ^ 32 * hi)

/-- Well-formed writes to the control words (R56; 10_state.md R22, R25 to R27, R29). IMM and SIGNS of an idle MAU
take the bytes written, at 8 bytes and at either 4-byte half (SIGNS has no bits above 15); CTRL takes bit 0; ID,
FLAGS, the upper half of CTRL and the reserved words ignore the write, busy or not. -/
def Obligations.ControlWordWritesTakeEffect : Prop :=
  ∀ (s : State) (v : Nat), s.rst = false →
    (s.status.busy = false →
      s.hostWrite 0x028 8 v = { s with imm := BitVec.ofNat 64 v } ∧
      (∃ imm, s.hostWrite 0x028 4 v = { s with imm := imm } ∧
        ∀ i, i < 64 → imm.getLsbD i = if i < 32 then v.testBit i else s.imm.getLsbD i) ∧
      (∃ imm, s.hostWrite 0x02C 4 v = { s with imm := imm } ∧
        ∀ i, i < 64 → imm.getLsbD i = if i < 32 then s.imm.getLsbD i else v.testBit (i - 32)) ∧
      (∀ n, n = 4 ∨ n = 8 →
        ∃ nn, s.hostWrite 0x030 n v = { s with nn := nn } ∧ ∀ i, i < 16 → nn.getLsbD i = v.testBit i) ∧
      s.hostWrite 0x034 4 v = s) ∧
    (∀ n, n = 4 ∨ n = 8 → s.hostWrite 0x008 n v = { s with ien := v.testBit 0 } ∧
      s.hostWrite 0x000 n v = s ∧ s.hostWrite 0x020 n v = s) ∧
    s.hostWrite 0x00C 4 v = s ∧ s.hostWrite 0x004 4 v = s ∧ s.hostWrite 0x024 4 v = s ∧
    (∀ off n, 0x038 ≤ off → off < 0x400 → s.hostWrite off n v = s)

/-- R61, R208: while BUSY = 1 a well-formed write to RF, SIGNS or IMM is dropped and sets REJ, and a CTRL write
takes effect; a CMD write while ERR = 1 is dropped too. At 0x034, the reserved half of SIGNS, this is the model's
reading (log 19). -/
def Obligations.RejectedWritesOnlySetRej : Prop :=
  ∀ (s : State) (off n v : Nat), s.rst = false → off < 0x800 → WellFormedAccess off n →
    ((s.status.busy = true ∧ ((0x028 ≤ off ∧ off < 0x038) ∨ 0x400 ≤ off)) ∨
      ((s.status.busy = true ∨ s.status.err = true) ∧ off = 0x018) →
      s.hostWrite off n v = { s with status := { s.status with rej := true } }) ∧
    (off = 0x008 → s.hostWrite off n v = { s with ien := v.testBit 0 })

/-- REJ is sticky (R208): once set, a step leaves it set unless the host writes 1 to STATUS bit 3 or drives rst. -/
def Obligations.RejStaysSetUntilCleared : Prop :=
  ∀ s t : State, step s = .next t → s.status.rej = true →
    t.status.rej = true ∨ (∃ level rest, s.inputs = .rst level :: rest) ∨
      ∃ addr n v rest, s.inputs = .write addr n v :: rest ∧ addr.offset? = some 0x010 ∧ v.testBit 3 = true

/-- R207 (and 10_state.md R28): a write of STATUS clears exactly the W1C fields whose bits are 1; clearing ERR
clears ERRCODE; a 4-byte write of the upper half clears nothing. -/
def Obligations.StatusWriteClearsTheWrittenOnes : Prop :=
  ∀ (s : State) (n v : Nat), s.rst = false →
    ((n = 4 ∨ n = 8) → s.hostWrite 0x010 n v =
      { s with status :=
        { busy := s.status.busy
          done := s.status.done && !v.testBit 1
          err := s.status.err && !v.testBit 2
          rej := s.status.rej && !v.testBit 3
          errcode := if v.testBit 2 then 0#8 else s.status.errcode } }) ∧
    s.hostWrite 0x014 4 v = s

/-- R60: a read leaves everything but the read port, and repeating it changes nothing; repeating a write changes
nothing either, except at STATUS and CMD. -/
def Obligations.ReadsAndPlainWritesAreIdempotent : Prop :=
  ∀ (s : State) (off n v : Nat), off < 0x800 →
    (s.hostRead off n).observe = s.observe ∧ (s.hostRead off n).inflight = s.inflight ∧
    (s.hostRead off n).hostRead off n = s.hostRead off n ∧
    (¬ (0x010 ≤ off ∧ off < 0x020) → (s.hostWrite off n v).hostWrite off n v = s.hostWrite off n v)

/-- The reset input (R230 to R233): asserting rst abandons a command in flight; while it is asserted writes are ignored
and reads return 0; deasserted, the machine is in the state of R231; CURVE is not touched. The model's own: the reset
values stand from the assertion on (log 5), a machine held in reset idles (log 3), and the read port is kept (log 4). -/
def Obligations.ResetInputRestoresTheResetState : Prop :=
  ∀ (s : State) (rest : List Input),
    (s.inputs = .rst true :: rest →
      step s = .next
        { State.reset with curve := s.curve, rst := true, inputs := rest, readData := s.readData }) ∧
    (s.rst = true → s.inputs = .rst false :: rest →
      step s = .next { State.reset with curve := s.curve, inputs := rest, readData := s.readData }) ∧
    (s.rst = true → ∀ off n v, off < 0x800 →
      (s.inputs = .write (.off off) n v :: rest → step s = .next { s with inputs := rest }) ∧
      (s.inputs = .read (.off off) n :: rest →
        step s = .next { s with inputs := rest, readData := List.replicate n 0#8 })) ∧
    (s.rst = true → s.inputs = [] → step s = .next s)

/-- R210: irq = IEN and DONE; so completion of any command asserts it exactly when IEN = 1, and acceptance,
clearing DONE, clearing IEN and reset deassert it. The last clause, that it is low from the assertion of rst on, is
the model's reading (log 5, unsafe): the spec gives it after reset, which the clause before it says. -/
def Obligations.InterruptLineFollowsDoneAndIen : Prop :=
  (∀ s : State, s.irq = (s.ien && s.status.done)) ∧
  (∀ (s : State) (i : Instr), ∃ t, exec i s = .next t ∧ t.irq = s.ien) ∧
  (∀ (s : State) (c : CmdWord), (s.accept c).irq = false) ∧
  (∀ (s : State) (v : Nat), s.rst = false → v.testBit 1 = true → (s.hostWrite 0x010 8 v).irq = false) ∧
  (∀ (s : State) (v : Nat), s.rst = false → v.testBit 0 = false → (s.hostWrite 0x008 8 v).irq = false) ∧
  (∀ s : State, ((s.setRst true).setRst false).irq = false) ∧
  (∀ s : State, (s.setRst true).irq = false)

/-- Addresses (R50, R51): an access outside the window, by offset or by bus address, stops the machine by name (the
model's choice, log 7); an access at a bus address inside it is the access at the offset from MAU_BASE (log 8). -/
def Obligations.AccessOutsideTheWindowStops : Prop :=
  (∀ (s : State) (off n v : Nat) (rest : List Input), 0x800 ≤ off →
    (s.inputs = .read (.off off) n :: rest ∨ s.inputs = .write (.off off) n v :: rest) →
    step s = .fault .outsideWindow) ∧
  (∀ (s : State) (a n v : Nat) (rest : List Input), a < Config.mauBase ∨ Config.mauBase + 0x800 ≤ a →
    (s.inputs = .read (.bus a) n :: rest ∨ s.inputs = .write (.bus a) n v :: rest) →
    step s = .fault .outsideWindow) ∧
  (∀ (s : State) (off n v : Nat) (rest : List Input), off < 0x800 →
    step { s with inputs := .read (.bus (Config.mauBase + off)) n :: rest } =
      step { s with inputs := .read (.off off) n :: rest } ∧
    step { s with inputs := .write (.bus (Config.mauBase + off)) n v :: rest } =
      step { s with inputs := .write (.off off) n v :: rest })

/-- LDR (R89) on an idle MAU: eight limb writes put the value in the register and change nothing else. -/
def Obligations.LdrLoadsTheRegister : Prop :=
  ∀ (s : State) (r : Reg) (v : Nat) (rest : List Input), s.rst = false → s.status.busy = false → v < 2 ^ 512 →
    Host.Core.run Sys2Proof.core 8 { s with inputs := HostOp.ldr r v ++ rest } =
      .next { s with inputs := rest, regs := s.regs.set r.val (BitVec.ofNat 512 v) }

/-- EXEC (R88, R89) on an idle MAU with ERR = 0, whatever the number of polls: the command runs as on the
registers of that moment, and the last poll finds BUSY = 0. -/
def Obligations.ExecSequenceRunsTheCommand : Prop :=
  ∀ (s : State) (i : Instr) (polls : Nat) (rest : List Input), s.rst = false → s.status.busy = false →
    s.status.err = false → s.status.errcode = 0#8 → s.inflight = none →
    ∃ t u, Host.Core.run Sys2Proof.core (polls + 3) { s with inputs := HostOp.run polls i ++ rest } = .next t ∧
      exec i s = .next u ∧ t.regs = u.regs ∧ t.nn = u.nn ∧ t.flags = u.flags ∧ t.imm = u.imm ∧
      t.status = u.status ∧ t.cmdr = encode i ∧ t.inflight = none ∧ t.inputs = rest ∧
      t.readData.length = 8 ∧ (t.readData.head?).map (fun b => b.getLsbD 0) = some false

/-! ### All commands -/

/-- R92, R201, R202: every command ends, in a success or in an error completion with a code from 1 to 6 that
changes no register, tag, flag or IMM bit; never in a stop. -/
def Obligations.EveryCommandSucceedsOrReportsAnError : Prop :=
  ∀ (i : Instr) (s : State), ∃ t, exec i s = .next t ∧
    (Succeeded s t ∨ ∃ code, 1 ≤ code ∧ code ≤ 6 ∧ Raised s t code)

/-- R200: no command reports a code that the table of error codes does not list it under. For PMAKE this takes a
CURVE with b below p, one of the constraints of 43_curve.md R180 (R183: "With a valid CURVE no clock function inside
raises"). -/
def Obligations.OnlyTheListedErrorsAreReported : Prop :=
  ∀ (i : Instr) (s t : State), ((∃ rd a b, i = .pmake rd a b) → s.curve.b < s.curve.p) →
    s.status.err = false → exec i s = .next t → t.status.err = true → t.status.errcode.toNat ∈ mayReport i

/-- The frame of every command (R16, R24, R26): only the destination register and its tag change, FLAGS only by
the comparison and parity commands, ODD not by a comparison and LT, EQ, GT not by UODD; CURVE, IMM, CTRL, CMDR, REJ,
the reset input, the inputs and the read port never. -/
def Obligations.CommandsChangeOnlyWhatTheyName : Prop :=
  ∀ (i : Instr) (s t : State), exec i s = .next t →
    (∀ r, destOf i ≠ some r → t.reg r = s.reg r ∧ t.tag r = s.tag r) ∧
    (writesFlags i = false → t.flags = s.flags) ∧
    ((∀ r, i ≠ .uodd r) → t.flags.odd = s.flags.odd) ∧
    (∀ r, i = .uodd r → t.flags.lt = s.flags.lt ∧ t.flags.eq = s.flags.eq ∧ t.flags.gt = s.flags.gt) ∧
    t.curve = s.curve ∧ t.imm = s.imm ∧ t.ien = s.ien ∧ t.cmdr = s.cmdr ∧ t.status.rej = s.status.rej ∧ t.rst = s.rst ∧
    t.inputs = s.inputs ∧ t.readData = s.readData

/-- The frame as the host reads it: after a command with destination rd, every word of the window other than
rd's limbs, SIGNS, STATUS and FLAGS reads as before; FLAGS too, unless the command writes it. -/
def Obligations.CommandsLeaveOtherWindowWordsUnchanged : Prop :=
  ∀ (i : Instr) (s t : State), exec i s = .next t → ∀ off8, off8 % 8 = 0 → off8 < 0x800 →
    off8 ≠ 0x010 → off8 ≠ 0x030 → (off8 = 0x020 → writesFlags i = false) →
    (∀ rd, destOf i = some rd → ¬ (0x400 + 0x40 * rd.val ≤ off8 ∧ off8 < 0x440 + 0x40 * rd.val)) →
    mapWord t off8 = mapWord s off8

/-! ### Unsigned family -/

/-- R102, R103, R104. -/
def Obligations.ConstantConstructorsWriteZeroOneMax : Prop :=
  ∀ (s : State) (rd : Reg),
    (Decodes 0x10 rd 0 0 0 (.uzero256 rd) ∧ ∃ t, exec (.uzero256 rd) s = .next t ∧ WroteReg s t rd 0 true) ∧
    (Decodes 0x11 rd 0 0 0 (.uzero512 rd) ∧ ∃ t, exec (.uzero512 rd) s = .next t ∧ WroteReg s t rd 0 true) ∧
    (Decodes 0x12 rd 0 0 0 (.uone256 rd) ∧ ∃ t, exec (.uone256 rd) s = .next t ∧ WroteReg s t rd 1 true) ∧
    (Decodes 0x13 rd 0 0 0 (.uone512 rd) ∧ ∃ t, exec (.uone512 rd) s = .next t ∧ WroteReg s t rd 1 true) ∧
    (Decodes 0x14 rd 0 0 0 (.umax256 rd) ∧
      ∃ t, exec (.umax256 rd) s = .next t ∧ WroteReg s t rd (2 ^ 256 - 1) true) ∧
    (Decodes 0x15 rd 0 0 0 (.umax512 rd) ∧
      ∃ t, exec (.umax512 rd) s = .next t ∧ WroteReg s t rd (2 ^ 512 - 1) true)

/-- R105 to R108: the native constructors at both widths; the signed ones drop the sign to the absolute value,
-2^63 and -2^31 included. -/
def Obligations.NativeConstructorsWriteTheImmediate : Prop :=
  ∀ (s : State) (rd : Reg),
    let v := s.srcImm.toNat
    let w := s.srcImm.toNat % 2 ^ 32
    (Decodes 0x16 rd 0 0 0 (.ufromu64_256 rd) ∧
      ∃ t, exec (.ufromu64_256 rd) s = .next t ∧ WroteReg s t rd v true) ∧
    (Decodes 0x17 rd 0 0 0 (.ufromu64_512 rd) ∧
      ∃ t, exec (.ufromu64_512 rd) s = .next t ∧ WroteReg s t rd v true) ∧
    (Decodes 0x18 rd 0 0 0 (.ufromi64_256 rd) ∧ ∃ t, exec (.ufromi64_256 rd) s = .next t ∧
      WroteReg s t rd (if v < 2 ^ 63 then v else 2 ^ 64 - v) true) ∧
    (Decodes 0x19 rd 0 0 0 (.ufromi64_512 rd) ∧ ∃ t, exec (.ufromi64_512 rd) s = .next t ∧
      WroteReg s t rd (if v < 2 ^ 63 then v else 2 ^ 64 - v) true) ∧
    (Decodes 0x1A rd 0 0 0 (.ufromu32_256 rd) ∧
      ∃ t, exec (.ufromu32_256 rd) s = .next t ∧ WroteReg s t rd w true) ∧
    (Decodes 0x1B rd 0 0 0 (.ufromu32_512 rd) ∧
      ∃ t, exec (.ufromu32_512 rd) s = .next t ∧ WroteReg s t rd w true) ∧
    (Decodes 0x1C rd 0 0 0 (.ufromi32_256 rd) ∧ ∃ t, exec (.ufromi32_256 rd) s = .next t ∧
      WroteReg s t rd (if w < 2 ^ 31 then w else 2 ^ 32 - w) true) ∧
    (Decodes 0x1D rd 0 0 0 (.ufromi32_512 rd) ∧ ∃ t, exec (.ufromi32_512 rd) s = .next t ∧
      WroteReg s t rd (if w < 2 ^ 31 then w else 2 ^ 32 - w) true)

/-- R109, R110: UWIDEN keeps bits 255:0; UNARROW copies a value below 2^256 and else raises WidthOverflow. -/
def Obligations.WidthConversionsWidenAndNarrow : Prop :=
  ∀ (s : State) (rd a : Reg),
    (Decodes 0x1E rd a 0 0 (.uwiden rd a) ∧
      ∃ t, exec (.uwiden rd a) s = .next t ∧ WroteReg s t rd (lo256 (s.src1 a)) true) ∧
    (Decodes 0x1F rd a 0 0 (.unarrow rd a) ∧ ∃ t, exec (.unarrow rd a) s = .next t ∧
      (all512 (s.src1 a) < 2 ^ 256 → WroteReg s t rd (all512 (s.src1 a)) true) ∧
      (2 ^ 256 ≤ all512 (s.src1 a) → Raised s t 5))

/-- R111, R112: addition and subtraction wrap modulo 2^W. -/
def Obligations.UnsignedAddAndSubtractWrap : Prop :=
  ∀ (s : State) (rd a b : Reg),
    (Decodes 0x20 rd a b 0 (.uadd256 rd a b) ∧ ∃ t, exec (.uadd256 rd a b) s = .next t ∧
      WroteReg s t rd ((lo256 (s.src1 a) + lo256 (s.src2 b)) % 2 ^ 256) true) ∧
    (Decodes 0x21 rd a b 0 (.uadd512 rd a b) ∧ ∃ t, exec (.uadd512 rd a b) s = .next t ∧
      WroteReg s t rd ((all512 (s.src1 a) + all512 (s.src2 b)) % 2 ^ 512) true) ∧
    (Decodes 0x22 rd a b 0 (.usub256 rd a b) ∧ ∃ t, exec (.usub256 rd a b) s = .next t ∧
      WroteReg s t rd ((2 ^ 256 + lo256 (s.src1 a) - lo256 (s.src2 b)) % 2 ^ 256) true) ∧
    (Decodes 0x23 rd a b 0 (.usub512 rd a b) ∧ ∃ t, exec (.usub512 rd a b) s = .next t ∧
      WroteReg s t rd ((2 ^ 512 + all512 (s.src1 a) - all512 (s.src2 b)) % 2 ^ 512) true)

/-- R113: the product is truncated to its low W bits. -/
def Obligations.UnsignedMultiplyTruncates : Prop :=
  ∀ (s : State) (rd a b : Reg),
    (Decodes 0x24 rd a b 0 (.umul256 rd a b) ∧ ∃ t, exec (.umul256 rd a b) s = .next t ∧
      WroteReg s t rd ((lo256 (s.src1 a) * lo256 (s.src2 b)) % 2 ^ 256) true) ∧
    (Decodes 0x25 rd a b 0 (.umul512 rd a b) ∧ ∃ t, exec (.umul512 rd a b) s = .next t ∧
      WroteReg s t rd ((all512 (s.src1 a) * all512 (s.src2 b)) % 2 ^ 512) true)

/-- R114: the quotient, or DivideByZero when the W-bit divisor is 0. -/
def Obligations.UnsignedDivideGivesTheQuotient : Prop :=
  ∀ (s : State) (rd a b : Reg),
    (Decodes 0x26 rd a b 0 (.udiv256 rd a b) ∧ ∃ t, exec (.udiv256 rd a b) s = .next t ∧
      (lo256 (s.src2 b) ≠ 0 → WroteReg s t rd (lo256 (s.src1 a) / lo256 (s.src2 b)) true) ∧
      (lo256 (s.src2 b) = 0 → Raised s t 1)) ∧
    (Decodes 0x27 rd a b 0 (.udiv512 rd a b) ∧ ∃ t, exec (.udiv512 rd a b) s = .next t ∧
      (all512 (s.src2 b) ≠ 0 → WroteReg s t rd (all512 (s.src1 a) / all512 (s.src2 b)) true) ∧
      (all512 (s.src2 b) = 0 → Raised s t 1))

/-- R115: short division and Algorithm D, chosen by the divisor's digit count, both give the quotient of R114. The
two algorithms are the model's own definitions, run by no step, the number of corrections PRESUMED (log 18). -/
def Obligations.BothDivisionPathsGiveTheQuotient : Prop :=
  ∀ (W : Width) (a b : Nat), a < 2 ^ W.bits → b < 2 ^ W.bits → divideByLimbs W a b = udiv a b

/-- R116: UCMP sets LT, EQ, GT from the numeric order of the W-bit views. -/
def Obligations.UnsignedCompareSetsTheOrder : Prop :=
  ∀ (s : State) (a b : Reg),
    (Decodes 0x28 0 a b 0 (.ucmp256 a b) ∧ ∃ t, exec (.ucmp256 a b) s = .next t ∧
      WroteFlags s t (orderFlags s.flags (lo256 (s.src1 a)) (lo256 (s.src2 b)))) ∧
    (Decodes 0x29 0 a b 0 (.ucmp512 a b) ∧ ∃ t, exec (.ucmp512 a b) s = .next t ∧
      WroteFlags s t (orderFlags s.flags (all512 (s.src1 a)) (all512 (s.src2 b))))

/-- R117: UDIGITS writes d, at least 1 and at most N, with the value below 2^(64 d) and, for d > 1, at least
2^(64 (d-1)). -/
def Obligations.DigitCountLocatesTheHighestLimb : Prop :=
  ∀ (s : State) (rd a : Reg),
    (Decodes 0x2A rd a 0 0 (.udigits256 rd a) ∧ ∃ t d, exec (.udigits256 rd a) s = .next t ∧ WroteReg s t rd d true ∧
      1 ≤ d ∧ d ≤ 4 ∧ lo256 (s.src1 a) < 2 ^ (64 * d) ∧ (d ≠ 1 → 2 ^ (64 * (d - 1)) ≤ lo256 (s.src1 a))) ∧
    (Decodes 0x2B rd a 0 0 (.udigits512 rd a) ∧ ∃ t d, exec (.udigits512 rd a) s = .next t ∧ WroteReg s t rd d true ∧
      1 ≤ d ∧ d ≤ 8 ∧ all512 (s.src1 a) < 2 ^ (64 * d) ∧ (d ≠ 1 → 2 ^ (64 * (d - 1)) ≤ all512 (s.src1 a)))

/-- R118, R121: UODD writes the lowest bit to ODD alone; UPARSE always completes with UnsupportedOperation. -/
def Obligations.ParityAndParsing : Prop :=
  (∀ (s : State) (a : Reg), Decodes 0x2C 0 a 0 0 (.uodd a) ∧ ∃ t, exec (.uodd a) s = .next t ∧
    WroteFlags s t { s.flags with odd := decide (all512 (s.src1 a) % 2 = 1) }) ∧
  (∀ s : State, Decodes 0x2E 0 0 0 0 .uparse256 ∧ ∃ t, exec .uparse256 s = .next t ∧ Raised s t 4) ∧
  (∀ s : State, Decodes 0x2F 0 0 0 0 .uparse512 ∧ ∃ t, exec .uparse512 s = .next t ∧ Raised s t 4)

/-- The laws of R119 on the family's functions; and no arithmetic command but UDIV raises. -/
def Obligations.UnsignedLaws : Prop :=
  (∀ (s : State) (rd a b : Reg), ∀ i ∈ [Instr.uadd256 rd a b, .uadd512 rd a b, .usub256 rd a b, .usub512 rd a b,
      .umul256 rd a b, .umul512 rd a b], ∃ t, exec i s = .next t ∧ Succeeded s t) ∧
  ∀ (W : Width) (a b c : Nat), a < 2 ^ W.bits → b < 2 ^ W.bits → c < 2 ^ W.bits →
    (ucmp a b = .lt ↔ a < b) ∧ (ucmp a b = .eq ↔ a = b) ∧ (ucmp a b = .gt ↔ b < a) ∧
    uadd W a b = uadd W b a ∧ umul W a b = umul W b a ∧
    uadd W (uadd W a b) c = uadd W a (uadd W b c) ∧ umul W (umul W a b) c = umul W a (umul W b c) ∧
    usub W (uadd W a b) b = a ∧
    uadd W a b < 2 ^ W.bits ∧ usub W a b < 2 ^ W.bits ∧ umul W a b < 2 ^ W.bits ∧
    (b ≠ 0 → ∃ q, udiv a b = .ok q ∧ q < 2 ^ W.bits) ∧
    (b ≠ 0 → a * b < 2 ^ W.bits → udiv (umul W a b) b = .ok a) ∧
    (a < 2 ^ 256 → narrow (widen a) = .ok a)

/-! ### Signed family -/

/-- R146, R152, R153: SNEG flips the tag; SFROMU copies with tag 1; SFROMI64 splits IMM into sign and magnitude. -/
def Obligations.SignedConversions : Prop :=
  ∀ (s : State) (rd a : Reg),
    (Decodes 0x40 rd a 0 0 (.sneg rd a) ∧ ∃ t, exec (.sneg rd a) s = .next t ∧
      WroteReg s t rd (all512 (s.src1 a)) (!(s.src1 a).nn)) ∧
    (Decodes 0x46 rd a 0 0 (.sfromu rd a) ∧ ∃ t, exec (.sfromu rd a) s = .next t ∧
      WroteReg s t rd (all512 (s.src1 a)) true) ∧
    (Decodes 0x47 rd 0 0 0 (.sfromi64 rd) ∧ ∃ t, exec (.sfromi64 rd) s = .next t ∧
      WroteReg s t rd (if s.srcImm.toNat < 2 ^ 63 then s.srcImm.toNat else 2 ^ 64 - s.srcImm.toNat)
        (decide (s.srcImm.toNat < 2 ^ 63)))

/-- R147, with R141's derived clause: SCMP sets LT, EQ, GT from the order of the integers, so that zeros of
either tag are equal. -/
def Obligations.SignedCompareIsTheIntegerOrder : Prop :=
  ∀ (s : State) (a b : Reg), Decodes 0x41 0 a b 0 (.scmp a b) ∧ ∃ t, exec (.scmp a b) s = .next t ∧
    WroteFlags s t (orderFlags s.flags (intOf (s.src1 a)) (intOf (s.src2 b)))

/-- R148, R149 with the cases of R142, R143 and R140: magnitude and tag of sums and differences. -/
def Obligations.SignedAddAndSubtractFollowTheCases : Prop :=
  ∀ (s : State) (rd a b : Reg),
    (Decodes 0x42 rd a b 0 (.sadd rd a b) ∧ ∃ t m nn, exec (.sadd rd a b) s = .next t ∧ WroteReg s t rd m nn ∧
      SignedSum (all512 (s.src1 a)) (s.src1 a).nn (all512 (s.src2 b)) (s.src2 b).nn m nn) ∧
    (Decodes 0x43 rd a b 0 (.ssub rd a b) ∧ ∃ t m nn, exec (.ssub rd a b) s = .next t ∧ WroteReg s t rd m nn ∧
      SignedSum (all512 (s.src1 a)) (s.src1 a).nn (all512 (s.src2 b)) (!(s.src2 b).nn) m nn)

/-- R150, R151 with R144, R145: products and quotients of magnitudes with the XNOR of the tags; a zero divisor
raises DivideByZero whatever its tag. -/
def Obligations.SignedMultiplyAndDivide : Prop :=
  ∀ (s : State) (rd a b : Reg),
    (Decodes 0x44 rd a b 0 (.smul rd a b) ∧ ∃ t, exec (.smul rd a b) s = .next t ∧
      WroteReg s t rd ((all512 (s.src1 a) * all512 (s.src2 b)) % 2 ^ 512) ((s.src1 a).nn == (s.src2 b).nn)) ∧
    (Decodes 0x45 rd a b 0 (.sdiv rd a b) ∧ ∃ t, exec (.sdiv rd a b) s = .next t ∧
      (all512 (s.src2 b) ≠ 0 →
        WroteReg s t rd (all512 (s.src1 a) / all512 (s.src2 b)) ((s.src1 a).nn == (s.src2 b).nn)) ∧
      (all512 (s.src2 b) = 0 → Raised s t 1))

/-- R155: the family's functions compute the integer operations when no magnitude wraps. -/
def Obligations.SignedLaws : Prop :=
  ∀ a b : Signed, a.m < 2 ^ 511 → b.m < 2 ^ 511 →
    (sadd a b).val = a.val + b.val ∧ (ssub a b).val = a.val - b.val ∧
    scmp (sadd a b) (sadd b a) = .eq ∧
    (a.m * b.m < 2 ^ 512 → (smul a b).val = a.val * b.val) ∧ smul a b = smul b a ∧
    (b.m ≠ 0 → ∃ q, sdiv a b = .ok q ∧ q.val = a.val.tdiv b.val)

/-! ### Modular family -/

/-- R161: one conditional subtraction, whatever the operands; WidthOverflow exactly when the result does not fit. -/
def Obligations.ModularAddSubtractsOnce : Prop :=
  ∀ (s : State) (rd a b m : Reg),
    let x := lo256 (s.src1 a) + lo256 (s.src2 b)
    let p := lo256 (s.src3 m)
    let v := if p ≤ x then x - p else x
    Decodes 0x50 rd a b m (.madd rd a b m) ∧ ∃ t, exec (.madd rd a b m) s = .next t ∧
      (v < 2 ^ 256 → WroteReg s t rd v true) ∧ (2 ^ 256 ≤ v → Raised s t 5)

/-- R162: a - b, or p - (b - a) when a < b; WidthOverflow exactly when a < b and b - a > p. -/
def Obligations.ModularSubtractBorrowsOnce : Prop :=
  ∀ (s : State) (rd a b m : Reg),
    let x := lo256 (s.src1 a)
    let y := lo256 (s.src2 b)
    let p := lo256 (s.src3 m)
    Decodes 0x51 rd a b m (.msub rd a b m) ∧ ∃ t, exec (.msub rd a b m) s = .next t ∧
      (y ≤ x → WroteReg s t rd (x - y) true) ∧
      (x < y → y - x ≤ p → WroteReg s t rd (p - (y - x)) true) ∧
      (x < y → p < y - x → Raised s t 5)

/-- R163: the product modulo p for every pair of operands; DivideByZero exactly when p = 0. -/
def Obligations.ModularMultiplyReduces : Prop :=
  ∀ (s : State) (rd a b m : Reg),
    let p := lo256 (s.src3 m)
    Decodes 0x52 rd a b m (.mmul rd a b m) ∧ ∃ t, exec (.mmul rd a b m) s = .next t ∧
      (p ≠ 0 → WroteReg s t rd ((lo256 (s.src1 a) * lo256 (s.src2 b)) % p) true) ∧
      (p = 0 → Raised s t 1)

/-- R164: the extended Euclidean algorithm on 256-bit values: an inverse below p when gcd(b, p) = 1 and p >= 2,
the two failures, and a coefficient 0 or 1 when p is 0 or 1. -/
def Obligations.ModularInverseIsCorrect : Prop :=
  ∀ b p : Nat, b < 2 ^ 256 → p < 2 ^ 256 →
    (b = 0 → modinv b p = .error .divideByZero) ∧
    (b ≠ 0 → Nat.gcd b p ≠ 1 → modinv b p = .error .noModularInverse) ∧
    (b ≠ 0 → Nat.gcd b p = 1 → ∃ c, modinv b p = .ok c ∧ (2 ≤ p → c < p ∧ (b * c) % p = 1) ∧ (p ≤ 1 → c ≤ 1))

/-- R165, R166, with the inverse of R164 (whatever p, prime or not): MDIV writes the c below p with c * b = a modulo p when gcd(b, p) = 1, and MINV is MDIV with a = 1;
their errors in order: b = 0, gcd(b, p) not 1, and p = 0 with b = 1. -/
def Obligations.ModularDivideAndInverse : Prop :=
  ∀ (s : State) (rd a b m : Reg),
    (let x := lo256 (s.src1 a)
     let y := lo256 (s.src2 b)
     let p := lo256 (s.src3 m)
     Decodes 0x53 rd a b m (.mdiv rd a b m) ∧ ∃ t, exec (.mdiv rd a b m) s = .next t ∧
      (y ≠ 0 → Nat.gcd y p = 1 → p ≠ 0 → ∃ c, c < p ∧ (c * y) % p = x % p ∧ WroteReg s t rd c true) ∧
      (y = 0 → Raised s t 1) ∧ (y ≠ 0 → Nat.gcd y p ≠ 1 → Raised s t 2) ∧ (y = 1 → p = 0 → Raised s t 1)) ∧
    (let y := lo256 (s.src1 b)
     let p := lo256 (s.src3 m)
     Decodes 0x54 rd b 0 m (.minv rd b m) ∧ ∃ t, exec (.minv rd b m) s = .next t ∧
      (y ≠ 0 → Nat.gcd y p = 1 → p ≠ 0 → ∃ c, c < p ∧ (c * y) % p = 1 % p ∧ WroteReg s t rd c true) ∧
      (y = 0 → Raised s t 1) ∧ (y ≠ 0 → Nat.gcd y p ≠ 1 → Raised s t 2) ∧ (y = 1 → p = 0 → Raised s t 1))

/-- R167: with a prime modulus p >= 3 and reduced operands the five commands are the field operations; MDIV and
MINV raise only for b = 0. -/
def Obligations.PrimeModulusGivesFieldArithmetic : Prop :=
  ∀ (s : State) (rd a b m : Reg),
    let x := lo256 (s.src1 a)
    let y := lo256 (s.src2 b)
    let p := lo256 (s.src3 m)
    Nat.Prime p → 3 ≤ p → x < p → y < p →
    (∃ t, exec (.madd rd a b m) s = .next t ∧ WroteReg s t rd ((x + y) % p) true) ∧
    (∃ t, exec (.msub rd a b m) s = .next t ∧ WroteReg s t rd ((x + p - y) % p) true) ∧
    (∃ t, exec (.mmul rd a b m) s = .next t ∧ WroteReg s t rd ((x * y) % p) true) ∧
    (∃ t, exec (.mdiv rd a b m) s = .next t ∧ (y = 0 → Raised s t 1) ∧
      (y ≠ 0 → ∃ c, WroteReg s t rd c true ∧ c < p ∧ (c * y) % p = x ∧
        ∀ d, d < p → (d * y) % p = x → d = c)) ∧
    (∃ t, exec (.minv rd a m) s = .next t ∧ (x = 0 → Raised s t 1) ∧
      (x ≠ 0 → ∃ c, WroteReg s t rd c true ∧ c < p ∧ (c * x) % p = 1 ∧
        ∀ d, d < p → (d * x) % p = 1 → d = c))

/-! ### Curve family -/

/-- R181, R182, R187: the generator of the unit's CURVE, the unchecked constructor, and equality of raw
coordinates. -/
def Obligations.PointConstructorsAndEquality : Prop :=
  ∀ (s : State) (rd a b : Reg),
    (Decodes 0x60 rd 0 0 0 (.pgen rd) ∧ ∃ t, exec (.pgen rd) s = .next t ∧
      WroteReg s t rd (s.curve.gy * 2 ^ 256 + s.curve.gx) true) ∧
    (Decodes 0x61 rd a b 0 (.pmakeu rd a b) ∧ ∃ t, exec (.pmakeu rd a b) s = .next t ∧
      WroteReg s t rd (lo256 (s.src2 b) * 2 ^ 256 + lo256 (s.src1 a)) true) ∧
    (Decodes 0x66 0 a b 0 (.peq a b) ∧ ∃ t, exec (.peq a b) s = .next t ∧
      WroteFlags s t ⟨false, decide (all512 (s.src1 a) = all512 (s.src2 b)), false, s.flags.odd⟩)

/-- R183, on every CURVE with b below p (a constraint of R180): PMAKE writes the point exactly when both coordinates
are below p and y^2 = x^3 + a x + b modulo p; else InvalidPoint, whichever test fails. -/
def Obligations.PmakeAcceptsExactlyThePointsOfTheCurve : Prop :=
  ∀ (s : State) (rd a b : Reg), s.curve.b < s.curve.p →
    let C := s.curve
    let x := lo256 (s.src1 a)
    let y := lo256 (s.src2 b)
    let good := x < C.p ∧ y < C.p ∧ y ^ 2 % C.p = (x ^ 3 + C.a * x + C.b) % C.p
    Decodes 0x62 rd a b 0 (.pmake rd a b) ∧ ∃ t, exec (.pmake rd a b) s = .next t ∧
      (good → WroteReg s t rd (y * 2 ^ 256 + x) true) ∧ (¬ good → Raised s t 6)

/-- R184, on every CURVE with a below p (a constraint of R180) and for all coordinates: DivideByZero when 2y = 0
modulo p; NoModularInverse when 2y is not 0 and shares a factor with p; else, with the slope lam = (3x^2 + a) / 2y,
the end of the sequence x' = lam^2 - 2x, y' = lam (x - x') - y of one-borrow subtractions, WidthOverflow included.
For coordinates below p that end is the point the formulas give modulo p. -/
def Obligations.PointDoublingFollowsTheFormula : Prop :=
  ∀ (s : State) (rd a : Reg), s.curve.a < s.curve.p →
    let C := s.curve
    let p := C.p
    let x := lo256 (s.src1 a)
    let y := hi256 (s.src1 a)
    Decodes 0x63 rd a 0 0 (.pdbl rd a) ∧ ∃ t, exec (.pdbl rd a) s = .next t ∧
      (2 * y % p = 0 → Raised s t 1) ∧
      (2 * y % p ≠ 0 → Nat.gcd (2 * y) p ≠ 1 → Raised s t 2) ∧
      (2 * y % p ≠ 0 → Nat.gcd (2 * y) p = 1 → ∃ lam, lam < p ∧ (lam * (2 * y)) % p = (3 * x ^ 2 + C.a) % p ∧
        EndsIn s t rd ((borrow (lam ^ 2 % p) (2 * x % p) p).bind fun x' =>
          (borrow x x' p).bind fun e => (borrow (lam * e % p) y p).map fun y' => (x', y'))) ∧
      (x < p → y < p → 2 * y % p ≠ 0 → Nat.gcd (2 * y) p = 1 → ∃ lam x' y', lam < p ∧ x' < p ∧ y' < p ∧
        (lam * (2 * y)) % p = (3 * x ^ 2 + C.a) % p ∧ (x' + 2 * x) % p = lam ^ 2 % p ∧
        (y' + y) % p = (lam * (x + p - x')) % p ∧ WroteReg s t rd (y' * 2 ^ 256 + x') true)

/-- R185, on every CURVE with p not 0 and for all coordinates: equal raw x coordinates raise DegenerateGeometry; else
dy = y2 - y1 and dx = x2 - x1 are one-borrow subtractions, WidthOverflow where one overflows; dx = 0 (x1 = x2 + p)
raises DivideByZero; a dx that is not 0 and shares a factor with p (dx = p among them) raises NoModularInverse; else,
with the slope lam = dy / dx, the command ends as the sequence x3 = lam^2 - x1 - x2, y3 = lam (x1 - x3) - y1 of
one-borrow subtractions, WidthOverflow included. For coordinates below p that end is the point the formulas give
modulo p. -/
def Obligations.PointAdditionFollowsTheFormula : Prop :=
  ∀ (s : State) (rd a b : Reg), s.curve.p ≠ 0 →
    let p := s.curve.p
    let x1 := lo256 (s.src1 a)
    let y1 := hi256 (s.src1 a)
    let x2 := lo256 (s.src2 b)
    let y2 := hi256 (s.src2 b)
    Decodes 0x64 rd a b 0 (.padd rd a b) ∧ ∃ t, exec (.padd rd a b) s = .next t ∧
      (x1 = x2 → Raised s t 3) ∧
      (x1 ≠ x2 → (borrow y2 y1 p = none ∨ borrow x2 x1 p = none) → Raised s t 5) ∧
      (x1 ≠ x2 → ∀ dy dx, borrow y2 y1 p = some dy → borrow x2 x1 p = some dx →
        (dx = 0 → Raised s t 1) ∧ (dx ≠ 0 → Nat.gcd dx p ≠ 1 → Raised s t 2) ∧
        (dx ≠ 0 → Nat.gcd dx p = 1 → ∃ lam, lam < p ∧ (lam * dx) % p = dy % p ∧
          EndsIn s t rd ((borrow (lam ^ 2 % p) x1 p).bind fun u => (borrow u x2 p).bind fun x3 =>
            (borrow x1 x3 p).bind fun e => (borrow (lam * e % p) y1 p).map fun y3 => (x3, y3)))) ∧
      (x1 ≠ x2 → x1 < p → y1 < p → x2 < p → y2 < p → Nat.gcd ((x2 + p - x1) % p) p = 1 →
        ∃ lam x3 y3, lam < p ∧ x3 < p ∧ y3 < p ∧
          (lam * (x2 + p - x1)) % p = (y2 + p - y1) % p ∧ (x3 + x1 + x2) % p = lam ^ 2 % p ∧
          (y3 + y1) % p = (lam * (x1 + p - x3)) % p ∧ WroteReg s t rd (y3 * 2 ^ 256 + x3) true)

/-- R186, R188, on every CURVE and for all coordinates: PMUL is the left-to-right scan of k (256-bit view), reporting
its first error; k = 0 raises DegenerateGeometry and k = 1 returns the point unchanged. The scan, psmulScan, is the
model's own definition of R188's sequence, run by no step (log 18). -/
def Obligations.ScalarMultiplicationIsTheScan : Prop :=
  ∀ (s : State) (rd a b : Reg),
    let k := lo256 (s.src1 a)
    let P : Point := ⟨lo256 (s.src2 b), hi256 (s.src2 b)⟩
    Decodes 0x65 rd a b 0 (.pmul rd a b) ∧ ∃ t, exec (.pmul rd a b) s = .next t ∧
      (k = 0 → Raised s t 3) ∧
      (k = 1 → WroteReg s t rd (P.y * 2 ^ 256 + P.x) true) ∧
      (k ≠ 0 → ∀ Q, psmulScan s.curve k P = .ok Q → WroteReg s t rd (Q.y * 2 ^ 256 + Q.x) true) ∧
      (k ≠ 0 → ∀ e, psmulScan s.curve k P = .error e → Raised s t e.code.toNat)

/-- Where the point operations fail, on any curve with a below p, for coordinates below p. On a valid curve (R180;
`Curve.Valid` asks also, of its own, that the generator's coordinates be below p, log 24) doubling fails exactly for y
= 0, with DivideByZero, and addition exactly for equal x, with DegenerateGeometry (the first two rows of R189, which
states them for the default curve). Where p is not prime, a slope's denominator that is not 0 and shares a factor with
p gives NoModularInverse. -/
def Obligations.CurveFailureMap : Prop :=
  ∀ C : Curve, C.a < C.p →
    (∀ P : Point, P.x < C.p → P.y < C.p →
      (P.y = 0 → pdbl C P = .error .divideByZero) ∧
      (2 * P.y % C.p ≠ 0 → Nat.gcd (2 * P.y) C.p ≠ 1 → pdbl C P = .error .noModularInverse) ∧
      (C.Valid → P.y ≠ 0 → ∃ Q, pdbl C P = .ok Q ∧ Q.x < C.p ∧ Q.y < C.p)) ∧
    (∀ P Q : Point, P.x < C.p → P.y < C.p → Q.x < C.p → Q.y < C.p →
      (P.x = Q.x → padd C P Q = .error .degenerateGeometry) ∧
      (P.x ≠ Q.x → Nat.gcd ((Q.x + C.p - P.x) % C.p) C.p ≠ 1 → padd C P Q = .error .noModularInverse) ∧
      (C.Valid → P.x ≠ Q.x → ∃ R, padd C P Q = .ok R ∧ R.x < C.p ∧ R.y < C.p))
end

