-- ==== Sys2Proof/Laws/Arithmetic.lean ====
section
/-! SUPPORT. The shared functions of 40_unsigned.md R100, R101 as arithmetic on naturals, and the two loops with
fuel (42_modular.md R164, 43_curve.md R186): any fuel at or above the bound gives the same answer. -/

set_option exponentiation.threshold 600

namespace Sys2Proof.Machine

/-! ### uadd, usub, umul, ucmp (R100) -/

theorem uadd_of_lt (W : Width) {a b : Nat} (h : a + b < 2 ^ W.bits) : uadd W a b = a + b := Nat.mod_eq_of_lt h

theorem umul_of_lt (W : Width) {a b : Nat} (h : a * b < 2 ^ W.bits) : umul W a b = a * b := Nat.mod_eq_of_lt h

theorem uadd_lt (W : Width) (a b : Nat) : uadd W a b < 2 ^ W.bits := Nat.mod_lt _ (Nat.two_pow_pos _)

theorem umul_lt (W : Width) (a b : Nat) : umul W a b < 2 ^ W.bits := Nat.mod_lt _ (Nat.two_pow_pos _)

theorem usub_lt (W : Width) (a b : Nat) : usub W a b < 2 ^ W.bits := by
  have hp : (0 : Int) < ((2 ^ W.bits : Nat) : Int) := by exact_mod_cast Nat.two_pow_pos _
  have := Int.emod_lt_of_pos ((a : Int) - b) hp
  have := Int.emod_nonneg ((a : Int) - b) hp.ne'
  unfold usub; omega

theorem usub_of_le (W : Width) {a b : Nat} (h : b ≤ a) (ha : a < 2 ^ W.bits) : usub W a b = a - b := by
  unfold usub
  rw [← Int.ofNat_sub h, ← Int.natCast_mod, Int.toNat_natCast]
  exact Nat.mod_eq_of_lt (by omega)

theorem usub_of_lt (W : Width) {a b : Nat} (h : a < b) (hb : b ≤ 2 ^ W.bits) :
    usub W a b = 2 ^ W.bits + a - b := by
  unfold usub
  have e : (a : Int) - b = ((2 ^ W.bits + a - b : Nat) : Int) - ((2 ^ W.bits : Nat) : Int) := by
    rw [Int.ofNat_sub (by omega)]; push_cast; ring
  rw [e, Int.sub_emod_right, ← Int.natCast_mod, Int.toNat_natCast]
  exact Nat.mod_eq_of_lt (by omega)

theorem ucmp_lt_iff {a b : Nat} : ucmp a b = .lt ↔ a < b := by
  unfold ucmp; split
  · simp [*]
  · split <;> simp [*]

theorem ucmp_eq_iff {a b : Nat} : ucmp a b = .eq ↔ a = b := by
  unfold ucmp; split
  · simp; omega
  · split <;> simp [*]

theorem ucmp_gt_iff {a b : Nat} : ucmp a b = .gt ↔ b < a := by
  unfold ucmp; split
  · simp; omega
  · split
    · simp; omega
    · simp; omega

/-! ### digits and narrow (R101) -/

/-- The digit count is the number of the last nonzero limb the scan meets. -/
theorem digitsFrom_succ (n v : Nat) :
    digitsFrom (n + 1) v = if limb n v ≠ 0 then n + 1 else digitsFrom n v := rfl

theorem digitsFrom_le (n v : Nat) (h : 1 ≤ n) : 1 ≤ digitsFrom n v ∧ digitsFrom n v ≤ n := by
  induction n with
  | zero => omega
  | succ n ih =>
    rw [digitsFrom_succ]
    split
    · omega
    · rcases n.eq_zero_or_pos with h0 | h0
      · subst h0; simp [digitsFrom]
      · have := ih h0; omega

/-- narrow succeeds exactly below 2^256 (R101). -/
theorem narrow_eq {v : Nat} (h : v < 2 ^ 512) :
    narrow v = if v < 2 ^ 256 then .ok v else .error .widthOverflow := by
  have low := digitsFrom_le 4 v (by omega)
  have d8 : digits .w512 v = if limb 7 v ≠ 0 then 8 else if limb 6 v ≠ 0 then 7 else
      if limb 5 v ≠ 0 then 6 else if limb 4 v ≠ 0 then 5 else digitsFrom 4 v := rfl
  have l4 : limb 4 v = v / 2 ^ 256 % 2 ^ 64 := rfl
  have l5 : limb 5 v = v / 2 ^ 256 / 2 ^ 64 % 2 ^ 64 := by rw [Nat.div_div_eq_div_mul, ← pow_add]; rfl
  have l6 : limb 6 v = v / 2 ^ 256 / 2 ^ 128 % 2 ^ 64 := by rw [Nat.div_div_eq_div_mul, ← pow_add]; rfl
  have l7 : limb 7 v = v / 2 ^ 256 / 2 ^ 192 % 2 ^ 64 := by rw [Nat.div_div_eq_div_mul, ← pow_add]; rfl
  have hq : v / 2 ^ 256 < 2 ^ 256 := Nat.div_lt_of_lt_mul (by rw [← pow_add]; exact h)
  have key : digits .w512 v > 4 ↔ ¬ v < 2 ^ 256 := by
    have hz : v < 2 ^ 256 ↔ v / 2 ^ 256 = 0 := by rw [Nat.div_eq_zero_iff]; simp
    rw [hz, d8, l4, l5, l6, l7]
    generalize v / 2 ^ 256 = q at hq
    split_ifs <;> omega
  unfold narrow
  split
  · rename_i h1; rw [if_neg (key.mp h1)]
  · rename_i h1; rw [if_pos (not_not.mp fun h2 => h1 (key.mpr h2))]

/-! ### The loop of modinv (R164) -/

/-- With q the quotient of r by nr, smul q nr has r's tag and the magnitude r - r mod nr, so the difference has
the remainder's magnitude. -/
theorem remainder_step (r nr : Signed) (hr : r.m < 2 ^ 512) :
    (ssub r (smul ⟨r.m / nr.m, r.nn == nr.nn⟩ nr)).m = r.m % nr.m := by
  have hle : r.m / nr.m * nr.m ≤ r.m := Nat.div_mul_le_self _ _
  have hm : umul .w512 (r.m / nr.m) nr.m = r.m / nr.m * nr.m := umul_of_lt .w512 (by
    show _ < 2 ^ 512; omega)
  have hmod : r.m - r.m / nr.m * nr.m = r.m % nr.m := by
    have := Nat.div_add_mod' r.m nr.m; omega
  have hn : ((r.nn == nr.nn) == nr.nn) = r.nn := by cases r.nn <;> cases nr.nn <;> rfl
  unfold ssub smul sneg sadd
  simp only [hm, hn]
  split
  · rename_i h0; simp [h0]
  · split
    · rename_i h0; simpa [h0] using hmod
    · split
      · rename_i h0; cases h : r.nn <;> simp [h] at h0
      · simp [hmod]

/-- Fuel at or above nr.m is enough: more does not change the answer (log 14). -/
theorem modinvLoop_fuel (f : Nat) : ∀ (g : Nat) (t nt r nr : Signed), nr.m ≤ f → nr.m ≤ g → nr.m < 2 ^ 512 →
    r.m < 2 ^ 512 → modinvLoop f t nt r nr = modinvLoop g t nt r nr := by
  induction f with
  | zero =>
    intro g t nt r nr hf _ _ _
    have h0 : nr.m = 0 := by omega
    cases g <;> simp [modinvLoop, h0]
  | succ f ih =>
    intro g t nt r nr hf hg hn hr
    by_cases h0 : nr.m = 0
    · cases g <;> simp [modinvLoop, h0]
    · obtain ⟨g, rfl⟩ : ∃ k, g = k + 1 := ⟨g - 1, by omega⟩
      have hlt : r.m % nr.m < nr.m := Nat.mod_lt _ (by omega)
      simp only [modinvLoop, h0, if_false, sdiv]
      apply ih <;> (try rw [remainder_step r nr hr]) <;> omega

/-- One turn of the loop, for a nonzero nr. -/
theorem modinvLoop_step (t nt r nr : Signed) (f g : Nat) (h0 : nr.m ≠ 0) (hf : nr.m ≤ f) (hn : nr.m < 2 ^ 512)
    (hr : r.m < 2 ^ 512) (hg : r.m % nr.m ≤ g) :
    modinvLoop f t nt r nr =
      modinvLoop g nt (ssub t (smul ⟨r.m / nr.m, r.nn == nr.nn⟩ nt)) nr
        (ssub r (smul ⟨r.m / nr.m, r.nn == nr.nn⟩ nr)) := by
  obtain ⟨f, rfl⟩ : ∃ k, f = k + 1 := ⟨f - 1, by omega⟩
  have hlt : r.m % nr.m < nr.m := Nat.mod_lt _ (by omega)
  simp only [modinvLoop, h0, if_false, sdiv]
  apply modinvLoop_fuel <;> (try rw [remainder_step r nr hr]) <;> omega

/-! ### The recursion of psmul (R186) -/

/-- Fuel at or above k is enough (log 14). -/
theorem psmulFrom_fuel (C : Curve) (P : Point) (f : Nat) : ∀ g k, k ≤ f → k ≤ g →
    psmulFrom C f k P = psmulFrom C g k P := by
  induction f with
  | zero =>
    intro g k hf _
    have : k = 0 := by omega
    cases g <;> simp [psmulFrom, this]
  | succ f ih =>
    intro g k hf hg
    by_cases h0 : k = 0
    · cases g <;> simp [psmulFrom, h0]
    · obtain ⟨g, rfl⟩ : ∃ j, g = j + 1 := ⟨g - 1, by omega⟩
      simp only [psmulFrom]
      rw [ih g (k / 2) (by omega) (by omega), ih g (k - 1) (by omega) (by omega)]

theorem psmul_zero (C : Curve) (P : Point) : psmul C 0 P = .error .degenerateGeometry := rfl

theorem psmul_one (C : Curve) (P : Point) : psmul C 1 P = .ok P := rfl

/-- psmul's equation for an even scalar (R186). -/
theorem psmul_even (C : Curve) (P : Point) {k : Nat} (h : 2 ≤ k) (he : k % 2 = 0) :
    psmul C k P = (psmul C (k / 2) P).bind (pdbl C) := by
  obtain ⟨j, rfl⟩ : ∃ j, k = j + 1 := ⟨k - 1, by omega⟩
  have h0 : j + 1 ≠ 0 := by omega
  have h1 : j + 1 ≠ 1 := by omega
  unfold psmul
  rw [← psmulFrom_fuel C P j ((j + 1) / 2) ((j + 1) / 2) (by omega) (by omega)]
  simp only [psmulFrom, h0, h1, he, if_false, if_true]
  cases psmulFrom C j ((j + 1) / 2) P <;> rfl

/-- psmul's equation for an odd scalar above 1 (R186). -/
theorem psmul_odd (C : Curve) (P : Point) {k : Nat} (h : 2 ≤ k) (ho : k % 2 = 1) :
    psmul C k P = (psmul C (k - 1) P).bind fun Q => padd C Q P := by
  obtain ⟨j, rfl⟩ : ∃ j, k = j + 1 := ⟨k - 1, by omega⟩
  have h0 : j + 1 ≠ 0 := by omega
  have h1 : j + 1 ≠ 1 := by omega
  have h2 : ¬ (j + 1) % 2 = 0 := by omega
  unfold psmul
  simp only [psmulFrom, h0, h1, h2, if_false, Nat.add_sub_cancel]
  cases psmulFrom C j j P <;> rfl

/-! ### CURVE's values are 256-bit values (00_scope.md R8) -/

theorem curve_p_lt (C : Curve) : C.p < 2 ^ 256 := C.pBits.isLt
theorem curve_a_lt (C : Curve) : C.a < 2 ^ 256 := C.aBits.isLt
theorem curve_b_lt (C : Curve) : C.b < 2 ^ 256 := C.bBits.isLt
theorem curve_gx_lt (C : Curve) : C.gx < 2 ^ 256 := C.gxBits.isLt
theorem curve_gy_lt (C : Curve) : C.gy < 2 ^ 256 := C.gyBits.isLt

/-! ### clock_add, clock_sub, clock_mul on 256-bit values (42_modular.md) -/

/-- clock_add on 256-bit values (42_modular.md R161). -/
theorem clockAdd_eq {a b p : Nat} (ha : a < 2 ^ 256) (hb : b < 2 ^ 256) (hp : p < 2 ^ 256) :
    clockAdd a b p =
      let v := if p ≤ a + b then a + b - p else a + b
      if v < 2 ^ 256 then .ok v else .error .widthOverflow := by
  have hs : uadd .w512 a b = a + b := uadd_of_lt .w512 (by show _ < 2 ^ 512; omega)
  simp only [clockAdd, widen, hs, ne_eq, ucmp_lt_iff, Nat.not_lt]
  split
  · rename_i h
    rw [usub_of_le .w512 h (by show _ < 2 ^ 512; omega), narrow_eq (by omega)]
  · rw [narrow_eq (by omega)]

/-- clock_sub on 256-bit values (R162). -/
theorem clockSub_eq {a b p : Nat} (ha : a < 2 ^ 256) (hb : b < 2 ^ 256) (hp : p < 2 ^ 256) :
    clockSub a b p =
      if b ≤ a then .ok (a - b)
      else if b - a ≤ p then .ok (p - (b - a))
      else .error .widthOverflow := by
  simp only [clockSub, widen, ucmp_lt_iff]
  by_cases h : b ≤ a
  · rw [if_neg (by omega), if_pos h, usub_of_le .w512 h (by show _ < 2 ^ 512; omega), narrow_eq (by omega),
      if_pos (by omega)]
  · have hba : usub .w512 b a = b - a := usub_of_le .w512 (by omega) (by show _ < 2 ^ 512; omega)
    rw [if_pos (by omega), if_neg h, hba]
    by_cases h2 : b - a ≤ p
    · rw [if_pos h2, usub_of_le .w512 h2 (by show _ < 2 ^ 512; omega), narrow_eq (by omega), if_pos (by omega)]
    · have hw : usub .w512 p (b - a) = 2 ^ 512 + p - (b - a) :=
        usub_of_lt .w512 (by omega) (by show _ ≤ 2 ^ 512; omega)
      rw [if_neg h2, hw, narrow_eq (by omega), if_neg (by omega)]

/-- clock_mul on 256-bit values (R163). -/
theorem clockMul_eq {a b p : Nat} (ha : a < 2 ^ 256) (hb : b < 2 ^ 256) (hp : p < 2 ^ 256) :
    clockMul a b p = if p = 0 then .error .divideByZero else .ok (a * b % p) := by
  have hab : a * b < 2 ^ 512 := by
    calc a * b < 2 ^ 256 * 2 ^ 256 := Nat.mul_lt_mul'' ha hb
      _ = 2 ^ 512 := by norm_num
  have hx : umul .w512 a b = a * b := umul_of_lt .w512 hab
  simp only [clockMul, widen, hx, ne_eq, ucmp_lt_iff, Nat.not_lt]
  by_cases h0 : p = 0
  · simp [h0, udiv]
  · have hm : a * b % p < p := Nat.mod_lt _ (by omega)
    rw [if_neg h0]
    split
    · have hq : a * b / p * p ≤ a * b := Nat.div_mul_le_self _ _
      have hqp : umul .w512 (a * b / p) p = a * b / p * p := umul_of_lt .w512 (by show _ < 2 ^ 512; omega)
      have hr : a * b - a * b / p * p = a * b % p := by
        have := Nat.div_add_mod (a * b) p
        rw [Nat.mul_comm] at this
        omega
      simp only [udiv, h0, if_false, hqp]
      rw [usub_of_le .w512 hq (by show _ < 2 ^ 512; omega), hr, narrow_eq (by omega), if_pos (by omega)]
    · rw [narrow_eq hab, if_pos (by omega), Nat.mod_eq_of_lt (by omega)]

end Sys2Proof.Machine
end

