-- ==== Sys2Proof/Laws/State.lean ====
section
/-! SUPPORT. One lemma per field per update of State, most of them true by rfl, so that no later proof unfolds a record
update. -/

namespace Sys2Proof.Machine

/-! ### writeOperand -/

@[simp] theorem State.writeOperand_curve (s : State) (r : Reg) (o : Operand) : (s.writeOperand r o).curve = s.curve := rfl
@[simp] theorem State.writeOperand_regs (s : State) (r : Reg) (o : Operand) : (s.writeOperand r o).regs = s.regs.set r.val o.val := rfl
@[simp] theorem State.writeOperand_nn (s : State) (r : Reg) (o : Operand) : (s.writeOperand r o).nn = setTag s.nn r o.nn := rfl
@[simp] theorem State.writeOperand_imm (s : State) (r : Reg) (o : Operand) : (s.writeOperand r o).imm = s.imm := rfl
@[simp] theorem State.writeOperand_flags (s : State) (r : Reg) (o : Operand) : (s.writeOperand r o).flags = s.flags := rfl
@[simp] theorem State.writeOperand_ien (s : State) (r : Reg) (o : Operand) : (s.writeOperand r o).ien = s.ien := rfl
@[simp] theorem State.writeOperand_status (s : State) (r : Reg) (o : Operand) : (s.writeOperand r o).status = s.status := rfl
@[simp] theorem State.writeOperand_cmdr (s : State) (r : Reg) (o : Operand) : (s.writeOperand r o).cmdr = s.cmdr := rfl
@[simp] theorem State.writeOperand_inflight (s : State) (r : Reg) (o : Operand) : (s.writeOperand r o).inflight = s.inflight := rfl
@[simp] theorem State.writeOperand_rst (s : State) (r : Reg) (o : Operand) : (s.writeOperand r o).rst = s.rst := rfl
@[simp] theorem State.writeOperand_inputs (s : State) (r : Reg) (o : Operand) : (s.writeOperand r o).inputs = s.inputs := rfl
@[simp] theorem State.writeOperand_readData (s : State) (r : Reg) (o : Operand) : (s.writeOperand r o).readData = s.readData := rfl

/-! ### complete -/

@[simp] theorem State.complete_curve (s : State) : (s.complete).curve = s.curve := rfl
@[simp] theorem State.complete_regs (s : State) : (s.complete).regs = s.regs := rfl
@[simp] theorem State.complete_nn (s : State) : (s.complete).nn = s.nn := rfl
@[simp] theorem State.complete_imm (s : State) : (s.complete).imm = s.imm := rfl
@[simp] theorem State.complete_flags (s : State) : (s.complete).flags = s.flags := rfl
@[simp] theorem State.complete_ien (s : State) : (s.complete).ien = s.ien := rfl
@[simp] theorem State.complete_status_busy (s : State) : (s.complete).status.busy = false := rfl
@[simp] theorem State.complete_status_done (s : State) : (s.complete).status.done = true := rfl
@[simp] theorem State.complete_status_err (s : State) : (s.complete).status.err = s.status.err := rfl
@[simp] theorem State.complete_status_rej (s : State) : (s.complete).status.rej = s.status.rej := rfl
@[simp] theorem State.complete_status_errcode (s : State) : (s.complete).status.errcode = s.status.errcode := rfl
@[simp] theorem State.complete_cmdr (s : State) : (s.complete).cmdr = s.cmdr := rfl
@[simp] theorem State.complete_inflight (s : State) : (s.complete).inflight = none := rfl
@[simp] theorem State.complete_rst (s : State) : (s.complete).rst = s.rst := rfl
@[simp] theorem State.complete_inputs (s : State) : (s.complete).inputs = s.inputs := rfl
@[simp] theorem State.complete_readData (s : State) : (s.complete).readData = s.readData := rfl

/-! ### raise -/

@[simp] theorem State.raise_curve (s : State) (e : ErrorKind) : (s.raise e).curve = s.curve := rfl
@[simp] theorem State.raise_regs (s : State) (e : ErrorKind) : (s.raise e).regs = s.regs := rfl
@[simp] theorem State.raise_nn (s : State) (e : ErrorKind) : (s.raise e).nn = s.nn := rfl
@[simp] theorem State.raise_imm (s : State) (e : ErrorKind) : (s.raise e).imm = s.imm := rfl
@[simp] theorem State.raise_flags (s : State) (e : ErrorKind) : (s.raise e).flags = s.flags := rfl
@[simp] theorem State.raise_ien (s : State) (e : ErrorKind) : (s.raise e).ien = s.ien := rfl
@[simp] theorem State.raise_status_busy (s : State) (e : ErrorKind) : (s.raise e).status.busy = false := rfl
@[simp] theorem State.raise_status_done (s : State) (e : ErrorKind) : (s.raise e).status.done = true := rfl
@[simp] theorem State.raise_status_err (s : State) (e : ErrorKind) : (s.raise e).status.err = true := rfl
@[simp] theorem State.raise_status_rej (s : State) (e : ErrorKind) : (s.raise e).status.rej = s.status.rej := rfl
@[simp] theorem State.raise_status_errcode (s : State) (e : ErrorKind) : (s.raise e).status.errcode = e.code := rfl
@[simp] theorem State.raise_cmdr (s : State) (e : ErrorKind) : (s.raise e).cmdr = s.cmdr := rfl
@[simp] theorem State.raise_inflight (s : State) (e : ErrorKind) : (s.raise e).inflight = none := rfl
@[simp] theorem State.raise_rst (s : State) (e : ErrorKind) : (s.raise e).rst = s.rst := rfl
@[simp] theorem State.raise_inputs (s : State) (e : ErrorKind) : (s.raise e).inputs = s.inputs := rfl
@[simp] theorem State.raise_readData (s : State) (e : ErrorKind) : (s.raise e).readData = s.readData := rfl

/-! ### reject -/

@[simp] theorem State.reject_curve (s : State) : (s.reject).curve = s.curve := rfl
@[simp] theorem State.reject_regs (s : State) : (s.reject).regs = s.regs := rfl
@[simp] theorem State.reject_nn (s : State) : (s.reject).nn = s.nn := rfl
@[simp] theorem State.reject_imm (s : State) : (s.reject).imm = s.imm := rfl
@[simp] theorem State.reject_flags (s : State) : (s.reject).flags = s.flags := rfl
@[simp] theorem State.reject_ien (s : State) : (s.reject).ien = s.ien := rfl
@[simp] theorem State.reject_status_busy (s : State) : (s.reject).status.busy = s.status.busy := rfl
@[simp] theorem State.reject_status_done (s : State) : (s.reject).status.done = s.status.done := rfl
@[simp] theorem State.reject_status_err (s : State) : (s.reject).status.err = s.status.err := rfl
@[simp] theorem State.reject_status_rej (s : State) : (s.reject).status.rej = true := rfl
@[simp] theorem State.reject_status_errcode (s : State) : (s.reject).status.errcode = s.status.errcode := rfl
@[simp] theorem State.reject_cmdr (s : State) : (s.reject).cmdr = s.cmdr := rfl
@[simp] theorem State.reject_inflight (s : State) : (s.reject).inflight = s.inflight := rfl
@[simp] theorem State.reject_rst (s : State) : (s.reject).rst = s.rst := rfl
@[simp] theorem State.reject_inputs (s : State) : (s.reject).inputs = s.inputs := rfl
@[simp] theorem State.reject_readData (s : State) : (s.reject).readData = s.readData := rfl

/-! ### accept -/

@[simp] theorem State.accept_curve (s : State) (c : CmdWord) : (s.accept c).curve = s.curve := rfl
@[simp] theorem State.accept_regs (s : State) (c : CmdWord) : (s.accept c).regs = s.regs := rfl
@[simp] theorem State.accept_nn (s : State) (c : CmdWord) : (s.accept c).nn = s.nn := rfl
@[simp] theorem State.accept_imm (s : State) (c : CmdWord) : (s.accept c).imm = s.imm := rfl
@[simp] theorem State.accept_flags (s : State) (c : CmdWord) : (s.accept c).flags = s.flags := rfl
@[simp] theorem State.accept_ien (s : State) (c : CmdWord) : (s.accept c).ien = s.ien := rfl
@[simp] theorem State.accept_status_busy (s : State) (c : CmdWord) : (s.accept c).status.busy = true := rfl
@[simp] theorem State.accept_status_done (s : State) (c : CmdWord) : (s.accept c).status.done = false := rfl
@[simp] theorem State.accept_status_err (s : State) (c : CmdWord) : (s.accept c).status.err = s.status.err := rfl
@[simp] theorem State.accept_status_rej (s : State) (c : CmdWord) : (s.accept c).status.rej = s.status.rej := rfl
@[simp] theorem State.accept_status_errcode (s : State) (c : CmdWord) : (s.accept c).status.errcode = s.status.errcode := rfl
@[simp] theorem State.accept_cmdr (s : State) (c : CmdWord) : (s.accept c).cmdr = c := rfl
@[simp] theorem State.accept_inflight (s : State) (c : CmdWord) : (s.accept c).inflight = some (s.snapshot c) := rfl
@[simp] theorem State.accept_rst (s : State) (c : CmdWord) : (s.accept c).rst = s.rst := rfl
@[simp] theorem State.accept_inputs (s : State) (c : CmdWord) : (s.accept c).inputs = s.inputs := rfl
@[simp] theorem State.accept_readData (s : State) (c : CmdWord) : (s.accept c).readData = s.readData := rfl

/-! ### w1cStatus -/

@[simp] theorem State.w1cStatus_curve (s : State) (w : BitVec 64) : (s.w1cStatus w).curve = s.curve := rfl
@[simp] theorem State.w1cStatus_regs (s : State) (w : BitVec 64) : (s.w1cStatus w).regs = s.regs := rfl
@[simp] theorem State.w1cStatus_nn (s : State) (w : BitVec 64) : (s.w1cStatus w).nn = s.nn := rfl
@[simp] theorem State.w1cStatus_imm (s : State) (w : BitVec 64) : (s.w1cStatus w).imm = s.imm := rfl
@[simp] theorem State.w1cStatus_flags (s : State) (w : BitVec 64) : (s.w1cStatus w).flags = s.flags := rfl
@[simp] theorem State.w1cStatus_ien (s : State) (w : BitVec 64) : (s.w1cStatus w).ien = s.ien := rfl
@[simp] theorem State.w1cStatus_status_busy (s : State) (w : BitVec 64) : (s.w1cStatus w).status.busy = s.status.busy := rfl
@[simp] theorem State.w1cStatus_status_done (s : State) (w : BitVec 64) : (s.w1cStatus w).status.done = (s.status.done && !w.getLsbD 1) := rfl
@[simp] theorem State.w1cStatus_status_err (s : State) (w : BitVec 64) : (s.w1cStatus w).status.err = (s.status.err && !w.getLsbD 2) := rfl
@[simp] theorem State.w1cStatus_status_rej (s : State) (w : BitVec 64) : (s.w1cStatus w).status.rej = (s.status.rej && !w.getLsbD 3) := rfl
@[simp] theorem State.w1cStatus_status_errcode (s : State) (w : BitVec 64) : (s.w1cStatus w).status.errcode = (if w.getLsbD 2 then 0#8 else s.status.errcode) := rfl
@[simp] theorem State.w1cStatus_cmdr (s : State) (w : BitVec 64) : (s.w1cStatus w).cmdr = s.cmdr := rfl
@[simp] theorem State.w1cStatus_inflight (s : State) (w : BitVec 64) : (s.w1cStatus w).inflight = s.inflight := rfl
@[simp] theorem State.w1cStatus_rst (s : State) (w : BitVec 64) : (s.w1cStatus w).rst = s.rst := rfl
@[simp] theorem State.w1cStatus_inputs (s : State) (w : BitVec 64) : (s.w1cStatus w).inputs = s.inputs := rfl
@[simp] theorem State.w1cStatus_readData (s : State) (w : BitVec 64) : (s.w1cStatus w).readData = s.readData := rfl

/-! ### hostRead -/

@[simp] theorem State.hostRead_curve (s : State) (off n : Nat) : (s.hostRead off n).curve = s.curve := rfl
@[simp] theorem State.hostRead_regs (s : State) (off n : Nat) : (s.hostRead off n).regs = s.regs := rfl
@[simp] theorem State.hostRead_nn (s : State) (off n : Nat) : (s.hostRead off n).nn = s.nn := rfl
@[simp] theorem State.hostRead_imm (s : State) (off n : Nat) : (s.hostRead off n).imm = s.imm := rfl
@[simp] theorem State.hostRead_flags (s : State) (off n : Nat) : (s.hostRead off n).flags = s.flags := rfl
@[simp] theorem State.hostRead_ien (s : State) (off n : Nat) : (s.hostRead off n).ien = s.ien := rfl
@[simp] theorem State.hostRead_status (s : State) (off n : Nat) : (s.hostRead off n).status = s.status := rfl
@[simp] theorem State.hostRead_cmdr (s : State) (off n : Nat) : (s.hostRead off n).cmdr = s.cmdr := rfl
@[simp] theorem State.hostRead_inflight (s : State) (off n : Nat) : (s.hostRead off n).inflight = s.inflight := rfl
@[simp] theorem State.hostRead_rst (s : State) (off n : Nat) : (s.hostRead off n).rst = s.rst := rfl
@[simp] theorem State.hostRead_inputs (s : State) (off n : Nat) : (s.hostRead off n).inputs = s.inputs := rfl
@[simp] theorem State.hostRead_readData (s : State) (off n : Nat) : (s.hostRead off n).readData = s.readBytes off n := rfl

/-! ### setRst -/

@[simp] theorem State.setRst_curve (s : State) (l : Bool) : (s.setRst l).curve = s.curve := by
  unfold State.setRst; split <;> rfl
@[simp] theorem State.setRst_inputs (s : State) (l : Bool) : (s.setRst l).inputs = s.inputs := by
  unfold State.setRst; split <;> rfl
@[simp] theorem State.setRst_readData (s : State) (l : Bool) : (s.setRst l).readData = s.readData := by
  unfold State.setRst; split <;> rfl
@[simp] theorem State.setRst_rst (s : State) (l : Bool) : (s.setRst l).rst = l := by
  unfold State.setRst; cases l <;> cases h : s.rst <;> simp [h]

end Sys2Proof.Machine
end

