-- ==== Sys2Proof/Laws/Registers.lean ====
section
/-! SUPPORT. Read after write for registers, tags and operands, and the views of an operand as arithmetic on its
512-bit value. -/

set_option exponentiation.threshold 600

namespace Sys2Proof.Machine

/-! ### Tags -/

theorem getLsbD_setTag_same (nn : BitVec 16) (r : Reg) (b : Bool) : (setTag nn r b).getLsbD r.val = b := by
  cases b <;> simp [setTag, r.isLt]

theorem getLsbD_setTag_ne (nn : BitVec 16) (r q : Reg) (b : Bool) (h : q ≠ r) :
    (setTag nn r b).getLsbD q.val = nn.getLsbD q.val := by
  have hv : ¬ q.val = r.val := fun e => h (Fin.ext e)
  cases b <;> simp [setTag, hv]

/-! ### Registers -/

@[simp] theorem State.reg_writeOperand_same (s : State) (r : Reg) (o : Operand) :
    (s.writeOperand r o).reg r = o.val := by
  simp [State.reg]

@[simp] theorem State.tag_writeOperand_same (s : State) (r : Reg) (o : Operand) :
    (s.writeOperand r o).tag r = o.nn :=
  getLsbD_setTag_same s.nn r o.nn

theorem State.reg_writeOperand_ne (s : State) {r q : Reg} (o : Operand) (h : q ≠ r) :
    (s.writeOperand r o).reg q = s.reg q := by
  have hv : r.val ≠ q.val := fun e => h (Fin.ext e.symm)
  simp [State.reg, Vector.getElem_set_ne, hv]

theorem State.tag_writeOperand_ne (s : State) {r q : Reg} (o : Operand) (h : q ≠ r) :
    (s.writeOperand r o).tag q = s.tag q :=
  getLsbD_setTag_ne s.nn r q o.nn h

@[simp] theorem State.operand_writeOperand_same (s : State) (r : Reg) (o : Operand) :
    (s.writeOperand r o).operand r = o := by
  simp [State.operand]

theorem State.operand_writeOperand_ne (s : State) {r q : Reg} (o : Operand) (h : q ≠ r) :
    (s.writeOperand r o).operand q = s.operand q := by
  simp [State.operand, s.reg_writeOperand_ne o h, s.tag_writeOperand_ne o h]

/-- Registers and tags read the same in states with the same register file and tags. -/
theorem State.operand_congr {s t : State} (hr : t.regs = s.regs) (hn : t.nn = s.nn) (r : Reg) :
    t.operand r = s.operand r := by
  simp [State.operand, State.reg, State.tag, hr, hn]

@[simp] theorem State.reg_complete (s : State) (r : Reg) : s.complete.reg r = s.reg r := rfl
@[simp] theorem State.tag_complete (s : State) (r : Reg) : s.complete.tag r = s.tag r := rfl
@[simp] theorem State.reg_raise (s : State) (e : ErrorKind) (r : Reg) : (s.raise e).reg r = s.reg r := rfl
@[simp] theorem State.tag_raise (s : State) (e : ErrorKind) (r : Reg) : (s.raise e).tag r = s.tag r := rfl
@[simp] theorem State.operand_accept (s : State) (c : CmdWord) (r : Reg) : (s.accept c).operand r = s.operand r :=
  rfl

/-! ### Views (10_state.md R23) and results (R24) -/

theorem Operand.u256_eq (o : Operand) : o.u256 = o.val.toNat % 2 ^ 256 := by
  simp [Operand.u256, BitVec.extractLsb'_toNat]

theorem Operand.u256_lt (o : Operand) : o.u256 < 2 ^ 256 := (o.val.extractLsb' 0 256).isLt

theorem Operand.u512_lt (o : Operand) : o.u512 < 2 ^ 512 := o.val.isLt

theorem Operand.uW_lt (o : Operand) (W : Width) : o.uW W < 2 ^ W.bits := by
  cases W
  · exact o.u256_lt
  · exact o.u512_lt

theorem Operand.point_x (o : Operand) : o.point.x = o.val.toNat % 2 ^ 256 := o.u256_eq

theorem Operand.point_y (o : Operand) : o.point.y = o.val.toNat / 2 ^ 256 := by
  have h : o.val.toNat < 2 ^ 256 * 2 ^ 256 := by rw [← pow_add]; exact o.val.isLt
  have : o.point.y = o.val.toNat >>> 256 % 2 ^ 256 := by simp [Operand.point, BitVec.extractLsb'_toNat]
  rw [this, Nat.shiftRight_eq_div_pow, Nat.mod_eq_of_lt (Nat.div_lt_of_lt_mul h)]

theorem Operand.ofUnsigned_toNat (v : Nat) (h : v < 2 ^ 512) : (Operand.ofUnsigned v).val.toNat = v := by
  simp only [Operand.ofUnsigned, BitVec.toNat_ofNat]; exact Nat.mod_eq_of_lt h

theorem Operand.ofSigned_toNat (a : Signed) (h : a.m < 2 ^ 512) : (Operand.ofSigned a).val.toNat = a.m := by
  simp only [Operand.ofSigned, BitVec.toNat_ofNat]; exact Nat.mod_eq_of_lt h

theorem Operand.ofPoint_toNat (P : Point) (hx : P.x < 2 ^ 256) (hy : P.y < 2 ^ 256) :
    (Operand.ofPoint P).val.toNat = P.y * 2 ^ 256 + P.x := by
  simp only [Operand.ofPoint, BitVec.toNat_append, BitVec.toNat_ofNat, Nat.mod_eq_of_lt hx, Nat.mod_eq_of_lt hy]
  rw [← Nat.shiftLeft_add_eq_or_of_lt hx, Nat.shiftLeft_eq]

end Sys2Proof.Machine
end

