-- ==== Sys2Proof/Laws/Commands.lean ====
section
/-! SUPPORT. What each shared form of a command can do: the ends of a command (`commitReg`, `commitFlags`,
`commitError`) as predicates of Safety.lean, and the one case analysis over all 51 commands. -/

namespace Sys2Proof.Machine

/-! ### The three ends of a command -/

theorem settled_complete (s : State) (t : State) (h : t.curve = s.curve ∧ t.imm = s.imm ∧ t.ien = s.ien ∧ t.cmdr = s.cmdr ∧
    t.rst = s.rst ∧ t.inputs = s.inputs ∧ t.readData = s.readData ∧ t.status = s.status) :
    Succeeded s t.complete := by
  obtain ⟨hc, h1, h2, h3, h4, h5, h6, h7⟩ := h
  exact { curve := hc, imm := h1, ien := h2, cmdr := h3, rst := h4, inputs := h5, readData := h6, rej := by simp [h7],
          inflight := rfl, busy := rfl, done := rfl, err := by simp [h7], errcode := by simp [h7] }

/-- The success end of a register command. -/
theorem wroteReg_complete (s : State) (rd : Reg) (o : Operand) :
    WroteReg s (s.writeOperand rd o).complete rd o.val.toNat o.nn where
  toSucceeded := settled_complete s _ ⟨rfl, rfl, rfl, rfl, rfl, rfl, rfl, rfl⟩
  value := by simp
  tag := by simp
  others := fun r h => by simp [s.reg_writeOperand_ne o h, s.tag_writeOperand_ne o h]
  flags := rfl

/-- The success end of a flag command. -/
theorem wroteFlags_complete (s : State) (f : Flags) :
    WroteFlags s ({ s with flags := f } : State).complete f where
  toSucceeded := settled_complete s _ ⟨rfl, rfl, rfl, rfl, rfl, rfl, rfl, rfl⟩
  flags := rfl
  regs := fun _ => ⟨rfl, rfl⟩

/-- The error end. -/
theorem raised_raise (s : State) (e : ErrorKind) : Raised s (s.raise e) e.code.toNat where
  curve := rfl
  imm := rfl
  ien := rfl
  cmdr := rfl
  rst := rfl
  inputs := rfl
  readData := rfl
  rej := rfl
  inflight := rfl
  busy := rfl
  done := rfl
  err := rfl
  errcode := rfl
  flags := rfl
  regs := fun _ => ⟨rfl, rfl⟩

/-- A register command answers a success or an error completion, never a stop. -/
theorem State.commitReg_cases (s : State) (rd : Reg) (r : Except ErrorKind Operand) :
    (∃ o, r = .ok o ∧ s.commitReg rd r = .next (s.writeOperand rd o).complete) ∨
    (∃ e, r = .error e ∧ s.commitReg rd r = .next (s.raise e)) := by
  cases r with
  | ok o => exact .inl ⟨o, rfl, rfl⟩
  | error e => exact .inr ⟨e, rfl, rfl⟩

theorem commitReg_ok (s : State) (rd : Reg) (o : Operand) :
    ∃ t, s.commitReg rd (.ok o) = .next t ∧ WroteReg s t rd o.val.toNat o.nn :=
  ⟨_, rfl, wroteReg_complete s rd o⟩

theorem commitReg_error (s : State) (rd : Reg) (e : ErrorKind) :
    ∃ t, s.commitReg rd (.error e) = .next t ∧ Raised s t e.code.toNat :=
  ⟨_, rfl, raised_raise s e⟩

theorem commitFlags_wrote (s : State) (f : Flags) : ∃ t, s.commitFlags f = .next t ∧ WroteFlags s t f :=
  ⟨_, rfl, wroteFlags_complete s f⟩

/-- The end of a command with an unsigned result below 2^512. -/
theorem unsignedResult_wrote (rd : Reg) (v : Nat) (s : State) (h : v < 2 ^ 512) :
    ∃ t, unsignedResult rd v s = .next t ∧ WroteReg s t rd v true := by
  have := commitReg_ok s rd (.ofUnsigned v)
  rwa [Operand.ofUnsigned_toNat v h] at this

/-! ### One case analysis over all commands -/

/-- Every command ends in one of three ways: it commits to its destination register (or raises), it commits
FLAGS, or it always raises. -/
theorem exec_cases (i : Instr) (s : State) :
    (∃ rd r, destOf i = some rd ∧ writesFlags i = false ∧ exec i s = s.commitReg rd r) ∨
    (∃ f, destOf i = none ∧ writesFlags i = true ∧ exec i s = s.commitFlags f) ∨
    (∃ e, destOf i = none ∧ writesFlags i = false ∧ exec i s = s.commitError e) := by
  cases i with
  | ucmp256 | ucmp512 | uodd | scmp | peq => exact .inr (.inl ⟨_, rfl, rfl, rfl⟩)
  | uparse256 | uparse512 => exact .inr (.inr ⟨_, rfl, rfl, rfl⟩)
  | _ =>
    refine .inl ⟨_, ?_, rfl, rfl, ?_⟩
    on_goal 2 =>
      simp only [exec, execUzero256, execUzero512, execUone256, execUone512, execUmax256, execUmax512,
        execUfromu64_256, execUfromu64_512, execUfromi64_256, execUfromi64_512, execUfromu32_256, execUfromu32_512,
        execUfromi32_256, execUfromi32_512, execUwiden, execUnarrow, execUadd256, execUadd512, execUsub256,
        execUsub512, execUmul256, execUmul512, execUdiv256, execUdiv512, execUdigits256, execUdigits512, execSneg,
        execSadd, execSsub, execSmul, execSdiv, execSfromu, execSfromi64, execMadd, execMsub, execMmul, execMdiv,
        execMinv, execPgen, execPmakeu, execPmake, execPdbl, execPadd, execPmul, unsignedResult, unsignedBinary,
        unsignedDivide, unsignedDigits, signedBinary, modularTernary, pointResult]
      rfl

end Sys2Proof.Machine
end

