-- ==== Sys2Proof/Laws/Decode.lean ====
section
/-! SUPPORT. The field layout of a command word (30_encoding.md R80, R81): packing and extraction are inverse,
and no two rows of the opcode map share an opcode. -/

namespace Sys2Proof

theorem getLsbD_placeField (lo : Nat) (v : BitVec w) (i : Nat) (hi : i < 32) :
    (placeField lo v).getLsbD i = (decide (lo ≤ i) && v.getLsbD (i - lo)) := by
  by_cases h : lo ≤ i <;> simp [placeField, hi, h]

theorem fieldsOf_packFields (f : Fields) : fieldsOf (packFields f) = f := by
  cases f with
  | mk op rd rs1 rs2 rs3 rsv =>
    simp only [fieldsOf, packFields, Fields.mk.injEq]
    refine ⟨?_, ?_, ?_, ?_, ?_, ?_⟩ <;>
      (apply BitVec.eq_of_getLsbD_eq; intro i hi
       simp only [BitVec.getLsbD_extractLsb', BitVec.getLsbD_or]
       repeat rw [getLsbD_placeField _ _ _ (by omega)]
       interval_cases i <;> simp)

theorem packFields_fieldsOf (c : CmdWord) : packFields (fieldsOf c) = c := by
  apply BitVec.eq_of_getLsbD_eq
  intro i hi
  simp only [fieldsOf, packFields, BitVec.getLsbD_or]
  repeat rw [getLsbD_placeField _ _ _ hi]
  simp only [BitVec.getLsbD_extractLsb']
  interval_cases i <;> simp

/-- Bits of a number below a power of two. -/
theorem testBit_eq_false_of_lt {n k i : Nat} (h : n < 2 ^ k) (hi : k ≤ i) : n.testBit i = false :=
  Nat.testBit_lt_two_pow (lt_of_lt_of_le h (Nat.pow_le_pow_right (by omega) hi))

/-- The assembler's word (30_encoding.md R87) is the packing of its fields. -/
theorem assemble_eq_packFields (op rd a b c : Nat) (hop : op < 256) (hrd : rd < 16) (ha : a < 16) (hb : b < 16)
    (hc : c < 16) : assemble op rd a b c =
      packFields ⟨BitVec.ofNat 8 op, BitVec.ofNat 4 rd, BitVec.ofNat 4 a, BitVec.ofNat 4 b, BitVec.ofNat 4 c, 0#8⟩ := by
  have four : ∀ n i, n < 16 → (decide (i < 4) && n.testBit i) = n.testBit i := fun n i hn => by
    by_cases h : i < 4
    · simp [h]
    · simp [h, testBit_eq_false_of_lt (k := 4) hn (Nat.le_of_not_lt h)]
  have eight : ∀ i, (decide (i < 8) && op.testBit i) = op.testBit i := fun i => by
    by_cases h : i < 8
    · simp [h]
    · simp [h, testBit_eq_false_of_lt (k := 8) hop (Nat.le_of_not_lt h)]
  apply BitVec.eq_of_getLsbD_eq
  intro i hi
  simp only [packFields, BitVec.getLsbD_or, getLsbD_placeField _ _ _ hi, assemble, BitVec.getLsbD_ofNat, hi,
    decide_true, Bool.true_and, Nat.testBit_or, Nat.testBit_shiftLeft, ge_iff_le, four _ _ hrd, four _ _ ha,
    four _ _ hb, four _ _ hc, eight, Nat.zero_testBit, Bool.and_false, Bool.false_or, Nat.zero_le, Nat.sub_zero]
  ac_rfl

/-- A register number as a four-bit field. -/
theorem ofNat_four_reg (r : Reg) : BitVec.ofNat 4 r.val = BitVec.ofFin r := by
  apply BitVec.eq_of_toNat_eq
  simp

/-- A word assembled from a command's opcode and registers decodes to it. -/
theorem decodeWord_assemble (i : Instr) (op rd a b c : Nat) (hop : op < 256) (hrd : rd < 16) (ha : a < 16)
    (hb : b < 16) (hc : c < 16)
    (hd : decodeFields ⟨BitVec.ofNat 8 op, BitVec.ofNat 4 rd, BitVec.ofNat 4 a, BitVec.ofNat 4 b, BitVec.ofNat 4 c,
      0#8⟩ = .ok i) : decodeWord (assemble op rd a b c) = .ok i := by
  rw [assemble_eq_packFields op rd a b c hop hrd ha hb hc, decodeWord, fieldsOf_packFields, hd]

theorem opcodeMap_length : opcodeMap.length = 51 := rfl

theorem opcodeMap_ops_nodup : (opcodeMap.map OpRow.op).Nodup := by decide

end Sys2Proof
end

