-- ==== Sys2Proof/Laws/PerInstr.lean ====
section
/-! SUPPORT. Per-instruction families of lemmas, one lemma per constructor of Instr. -/

namespace Sys2Proof.Laws

/-- The fields an instruction encodes to select a row of the opcode map and pass its legality check (R82, R85). -/
def LegalFields.Statement (i : Instr) : Prop :=
  ∃ row ∈ opcodeMap, rowOf i.fields.op = some row ∧ i.fields.wellFormed row.shape = true

/-- A row found for the opcode with a passing check gives the statement. -/
theorem LegalFields.of_row {i : Instr} {row : OpRow} (h : rowOf i.fields.op = some row)
    (hw : i.fields.wellFormed row.shape = true) : LegalFields.Statement i :=
  ⟨row, List.mem_of_find?_eq_some h, h, hw⟩

theorem LegalFields.uzero256 (rd : Reg) : Statement (.uzero256 rd) := of_row rfl rfl
theorem LegalFields.uzero512 (rd : Reg) : Statement (.uzero512 rd) := of_row rfl rfl
theorem LegalFields.uone256 (rd : Reg) : Statement (.uone256 rd) := of_row rfl rfl
theorem LegalFields.uone512 (rd : Reg) : Statement (.uone512 rd) := of_row rfl rfl
theorem LegalFields.umax256 (rd : Reg) : Statement (.umax256 rd) := of_row rfl rfl
theorem LegalFields.umax512 (rd : Reg) : Statement (.umax512 rd) := of_row rfl rfl
theorem LegalFields.ufromu64_256 (rd : Reg) : Statement (.ufromu64_256 rd) := of_row rfl rfl
theorem LegalFields.ufromu64_512 (rd : Reg) : Statement (.ufromu64_512 rd) := of_row rfl rfl
theorem LegalFields.ufromi64_256 (rd : Reg) : Statement (.ufromi64_256 rd) := of_row rfl rfl
theorem LegalFields.ufromi64_512 (rd : Reg) : Statement (.ufromi64_512 rd) := of_row rfl rfl
theorem LegalFields.ufromu32_256 (rd : Reg) : Statement (.ufromu32_256 rd) := of_row rfl rfl
theorem LegalFields.ufromu32_512 (rd : Reg) : Statement (.ufromu32_512 rd) := of_row rfl rfl
theorem LegalFields.ufromi32_256 (rd : Reg) : Statement (.ufromi32_256 rd) := of_row rfl rfl
theorem LegalFields.ufromi32_512 (rd : Reg) : Statement (.ufromi32_512 rd) := of_row rfl rfl
theorem LegalFields.uwiden (rd rs1 : Reg) : Statement (.uwiden rd rs1) := of_row rfl rfl
theorem LegalFields.unarrow (rd rs1 : Reg) : Statement (.unarrow rd rs1) := of_row rfl rfl
theorem LegalFields.uadd256 (rd rs1 rs2 : Reg) : Statement (.uadd256 rd rs1 rs2) := of_row rfl rfl
theorem LegalFields.uadd512 (rd rs1 rs2 : Reg) : Statement (.uadd512 rd rs1 rs2) := of_row rfl rfl
theorem LegalFields.usub256 (rd rs1 rs2 : Reg) : Statement (.usub256 rd rs1 rs2) := of_row rfl rfl
theorem LegalFields.usub512 (rd rs1 rs2 : Reg) : Statement (.usub512 rd rs1 rs2) := of_row rfl rfl
theorem LegalFields.umul256 (rd rs1 rs2 : Reg) : Statement (.umul256 rd rs1 rs2) := of_row rfl rfl
theorem LegalFields.umul512 (rd rs1 rs2 : Reg) : Statement (.umul512 rd rs1 rs2) := of_row rfl rfl
theorem LegalFields.udiv256 (rd rs1 rs2 : Reg) : Statement (.udiv256 rd rs1 rs2) := of_row rfl rfl
theorem LegalFields.udiv512 (rd rs1 rs2 : Reg) : Statement (.udiv512 rd rs1 rs2) := of_row rfl rfl
theorem LegalFields.ucmp256 (rs1 rs2 : Reg) : Statement (.ucmp256 rs1 rs2) := of_row rfl rfl
theorem LegalFields.ucmp512 (rs1 rs2 : Reg) : Statement (.ucmp512 rs1 rs2) := of_row rfl rfl
theorem LegalFields.udigits256 (rd rs1 : Reg) : Statement (.udigits256 rd rs1) := of_row rfl rfl
theorem LegalFields.udigits512 (rd rs1 : Reg) : Statement (.udigits512 rd rs1) := of_row rfl rfl
theorem LegalFields.uodd (rs1 : Reg) : Statement (.uodd rs1) := of_row rfl rfl
theorem LegalFields.uparse256 : Statement .uparse256 := of_row rfl rfl
theorem LegalFields.uparse512 : Statement .uparse512 := of_row rfl rfl
theorem LegalFields.sneg (rd rs1 : Reg) : Statement (.sneg rd rs1) := of_row rfl rfl
theorem LegalFields.scmp (rs1 rs2 : Reg) : Statement (.scmp rs1 rs2) := of_row rfl rfl
theorem LegalFields.sadd (rd rs1 rs2 : Reg) : Statement (.sadd rd rs1 rs2) := of_row rfl rfl
theorem LegalFields.ssub (rd rs1 rs2 : Reg) : Statement (.ssub rd rs1 rs2) := of_row rfl rfl
theorem LegalFields.smul (rd rs1 rs2 : Reg) : Statement (.smul rd rs1 rs2) := of_row rfl rfl
theorem LegalFields.sdiv (rd rs1 rs2 : Reg) : Statement (.sdiv rd rs1 rs2) := of_row rfl rfl
theorem LegalFields.sfromu (rd rs1 : Reg) : Statement (.sfromu rd rs1) := of_row rfl rfl
theorem LegalFields.sfromi64 (rd : Reg) : Statement (.sfromi64 rd) := of_row rfl rfl
theorem LegalFields.madd (rd rs1 rs2 rs3 : Reg) : Statement (.madd rd rs1 rs2 rs3) := of_row rfl rfl
theorem LegalFields.msub (rd rs1 rs2 rs3 : Reg) : Statement (.msub rd rs1 rs2 rs3) := of_row rfl rfl
theorem LegalFields.mmul (rd rs1 rs2 rs3 : Reg) : Statement (.mmul rd rs1 rs2 rs3) := of_row rfl rfl
theorem LegalFields.mdiv (rd rs1 rs2 rs3 : Reg) : Statement (.mdiv rd rs1 rs2 rs3) := of_row rfl rfl
theorem LegalFields.minv (rd rs1 rs3 : Reg) : Statement (.minv rd rs1 rs3) := of_row rfl rfl
theorem LegalFields.pgen (rd : Reg) : Statement (.pgen rd) := of_row rfl rfl
theorem LegalFields.pmakeu (rd rs1 rs2 : Reg) : Statement (.pmakeu rd rs1 rs2) := of_row rfl rfl
theorem LegalFields.pmake (rd rs1 rs2 : Reg) : Statement (.pmake rd rs1 rs2) := of_row rfl rfl
theorem LegalFields.pdbl (rd rs1 : Reg) : Statement (.pdbl rd rs1) := of_row rfl rfl
theorem LegalFields.padd (rd rs1 rs2 : Reg) : Statement (.padd rd rs1 rs2) := of_row rfl rfl
theorem LegalFields.pmul (rd rs1 rs2 : Reg) : Statement (.pmul rd rs1 rs2) := of_row rfl rfl
theorem LegalFields.peq (rs1 rs2 : Reg) : Statement (.peq rs1 rs2) := of_row rfl rfl

end Sys2Proof.Laws
end

