-- ==== Sys2Proof/Laws/Window.lean ====
section
/-! SUPPORT. The window: where each place is, read after write of a limb, and what each host access can do. -/

set_option exponentiation.threshold 600

namespace Sys2Proof.Machine

/-! ### The address map (20_memory.md R51, R52) -/

theorem regionOf_rf (r : Reg) (l : Fin 8) : regionOf (0x400 + 0x40 * r.val + 8 * l.val) = .rf r l := by
  have h1 : 0x400 ≤ 0x400 + 0x40 * r.val + 8 * l.val := by omega
  have hr := r.isLt
  have hl := l.isLt
  have e1 : (0x400 + 0x40 * r.val + 8 * l.val - 0x400) / 0x40 = r.val := by omega
  have e2 : (0x400 + 0x40 * r.val + 8 * l.val) % 0x40 / 8 = l.val := by omega
  simp only [regionOf, h1, if_true, e1, e2]
  congr 1 <;> (apply Fin.ext; simp [Fin.ofNat])

/-! ### Limbs (R20) -/

theorem getLsbD_limbOf (v : RegVal) (l : Fin 8) (i : Nat) :
    (limbOf v l).getLsbD i = (decide (i < 64) && v.getLsbD (64 * l.val + i)) := by
  simp [limbOf, BitVec.getLsbD_extractLsb']

/-- Bit i of a register with limb l replaced. -/
theorem getLsbD_setLimb (v : RegVal) (l : Fin 8) (w : Limb) (i : Nat) (hi : i < 512) :
    (setLimb v l w).getLsbD i =
      if 64 * l.val ≤ i ∧ i < 64 * l.val + 64 then w.getLsbD (i - 64 * l.val) else v.getLsbD i := by
  have hl := l.isLt
  simp only [setLimb, BitVec.getLsbD_or, BitVec.getLsbD_and, BitVec.getLsbD_not, BitVec.getLsbD_shiftLeft,
    BitVec.getLsbD_setWidth, BitVec.getLsbD_allOnes]
  by_cases h1 : i < 64 * l.val
  · simp [hi, h1]
  · by_cases h2 : i < 64 * l.val + 64
    · have h3 : i - 64 * l.val < 64 := by omega
      have h4 : i - 64 * l.val < 512 := by omega
      have h5 : 64 * l.val ≤ i := by omega
      simp [hi, h1, h2, h3, h4, h5]
    · have h3 : ¬ i - 64 * l.val < 64 := by omega
      have h5 : 64 ≤ i - 64 * l.val := by omega
      simp [hi, h1, h2, h3, h5]

theorem limbOf_setLimb_same (v : RegVal) (l : Fin 8) (w : Limb) : limbOf (setLimb v l w) l = w := by
  have hl := l.isLt
  apply BitVec.eq_of_getLsbD_eq
  intro i hi
  rw [getLsbD_limbOf, getLsbD_setLimb _ _ _ _ (by omega)]
  simp [hi]

theorem limbOf_setLimb_ne (v : RegVal) (l k : Fin 8) (w : Limb) (h : k ≠ l) :
    limbOf (setLimb v l w) k = limbOf v k := by
  have hl := l.isLt
  have hk := k.isLt
  have hv : k.val ≠ l.val := fun e => h (Fin.ext e)
  apply BitVec.eq_of_getLsbD_eq
  intro i hi
  rw [getLsbD_limbOf, getLsbD_limbOf, getLsbD_setLimb _ _ _ _ (by omega), if_neg (by omega)]

/-! ### Bytes of a word (R56) -/

/-- Bit i of a word with n bytes of v written at byte lo. -/
theorem getLsbD_mergeBytes (old : BitVec 64) (lo n v i : Nat) (hi : i < 64) :
    (mergeBytes old lo n v).getLsbD i =
      if 8 * lo ≤ i ∧ i < 8 * lo + 8 * n then v.testBit (i - 8 * lo) else old.getLsbD i := by
  have hm : ∀ j, j < 64 → (BitVec.ofNat 64 (2 ^ (8 * n) - 1)).getLsbD j = decide (j < 8 * n) := by
    intro j hj
    rw [BitVec.getLsbD_ofNat, Nat.testBit_two_pow_sub_one]; simp [hj]
  have hv : ∀ j, j < 64 → (BitVec.ofNat 64 v).getLsbD j = v.testBit j := by
    intro j hj
    rw [BitVec.getLsbD_ofNat]; simp [hj]
  simp only [mergeBytes, BitVec.getLsbD_or, BitVec.getLsbD_and, BitVec.getLsbD_not, BitVec.getLsbD_shiftLeft, hi,
    decide_true, Bool.true_and]
  by_cases h1 : i < 8 * lo
  · rw [if_neg (by omega)]; simp [h1]
  · rw [hm _ (by omega), hv _ (by omega)]
    by_cases h2 : i < 8 * lo + 8 * n
    · have h3 : i - 8 * lo < 8 * n := by omega
      rw [if_pos (by omega)]; simp [h1, h3]
    · have h3 : ¬ i - 8 * lo < 8 * n := by omega
      rw [if_neg (by omega)]; simp [h1, h3]

/-! ### What a host write can do -/

/-- Every write leaves the reset input, the inputs and the read port alone. -/
theorem writeWord_frame (s : State) (lo n v : Nat) (reg : Region) :
    (s.writeWord lo n v reg).rst = s.rst ∧ (s.writeWord lo n v reg).inputs = s.inputs ∧
      (s.writeWord lo n v reg).readData = s.readData ∧ (s.writeWord lo n v reg).flags = s.flags := by
  cases reg <;> simp only [State.writeWord, State.unlessBusy, State.offer, and_self, State.w1cStatus_rst,
    State.w1cStatus_inputs, State.w1cStatus_readData, State.w1cStatus_flags] <;> (repeat' split) <;>
    exact ⟨rfl, rfl, rfl, rfl⟩

theorem hostWrite_frame (s : State) (off n v : Nat) :
    (s.hostWrite off n v).rst = s.rst ∧ (s.hostWrite off n v).inputs = s.inputs ∧
      (s.hostWrite off n v).readData = s.readData ∧ (s.hostWrite off n v).flags = s.flags := by
  unfold State.hostWrite
  split
  · exact ⟨rfl, rfl, rfl, rfl⟩
  · exact writeWord_frame s _ n v _

/-- No host write reaches CURVE (20_memory.md R65). -/
theorem writeWord_curve (s : State) (lo n v : Nat) (reg : Region) : (s.writeWord lo n v reg).curve = s.curve := by
  cases reg <;> simp only [State.writeWord, State.unlessBusy, State.offer, State.w1cStatus_curve] <;>
    (repeat' split) <;> rfl

theorem hostWrite_curve (s : State) (off n v : Nat) : (s.hostWrite off n v).curve = s.curve := by
  unfold State.hostWrite
  split
  · rfl
  · exact writeWord_curve _ _ _ _ _

/-- While a command is in flight a host write can change CTRL, the W1C bits and REJ only (R61). -/
theorem writeWord_busy (s : State) (lo n v : Nat) (reg : Region) (hb : s.status.busy = true) :
    (s.writeWord lo n v reg).regs = s.regs ∧ (s.writeWord lo n v reg).nn = s.nn ∧
      (s.writeWord lo n v reg).imm = s.imm ∧ (s.writeWord lo n v reg).cmdr = s.cmdr ∧
      (s.writeWord lo n v reg).inflight = s.inflight ∧ (s.writeWord lo n v reg).status.busy = true := by
  cases reg <;> simp only [State.writeWord, State.unlessBusy, State.offer, hb, Bool.true_or, if_true,
    State.reject_regs, State.reject_nn, State.reject_imm, State.reject_cmdr, State.reject_inflight,
    State.reject_status_busy, State.w1cStatus_regs, State.w1cStatus_nn, State.w1cStatus_imm, State.w1cStatus_cmdr,
    State.w1cStatus_inflight, State.w1cStatus_status_busy, and_self]
  split
  · exact ⟨rfl, rfl, rfl, rfl, rfl, hb⟩
  · exact ⟨rfl, rfl, rfl, rfl, rfl, hb⟩

theorem hostWrite_busy (s : State) (off n v : Nat) (hb : s.status.busy = true) :
    (s.hostWrite off n v).regs = s.regs ∧ (s.hostWrite off n v).nn = s.nn ∧
      (s.hostWrite off n v).imm = s.imm ∧ (s.hostWrite off n v).cmdr = s.cmdr ∧
      (s.hostWrite off n v).inflight = s.inflight ∧ (s.hostWrite off n v).status.busy = true := by
  unfold State.hostWrite
  split
  · exact ⟨rfl, rfl, rfl, rfl, rfl, hb⟩
  · exact writeWord_busy s _ n v _ hb

end Sys2Proof.Machine
end

