-- ==== Sys2Proof/Laws/Turn.lean ====
section
/-! SUPPORT. One step by the kind of its input, what acceptance copies, and the end of a run. -/

namespace Sys2Proof.Machine

/-! ### Steps by input -/

theorem step_nil (s : State) (h : s.inputs = []) : step s = mauTurn s := by
  simp [step, advance, h]

theorem step_cons (s : State) (i : Input) (rest : List Input) (h : s.inputs = i :: rest) :
    step s = serve i { s with inputs := rest } := by
  simp [step, advance, h]

theorem atOffset_off (o : Nat) (k : Nat → State) (h : o < 0x800) : atOffset (.off o) k = .next (k o) := by
  simp [atOffset, HostAddr.offset?, Config.windowSize, h]

/-- A host access either stops outside the window or takes effect at its offset. -/
theorem atOffset_cases (a : HostAddr) (k : Nat → State) :
    (∃ o, a.offset? = some o ∧ atOffset a k = .next (k o)) ∨
      (a.offset? = none ∧ atOffset a k = .fault .outsideWindow) := by
  unfold atOffset
  cases h : a.offset? with
  | none => exact .inr ⟨rfl, rfl⟩
  | some o => exact .inl ⟨o, rfl, rfl⟩

/-- The MAU's own step: it waits, or completes an illegal word, or runs the decoded command. -/
theorem mauTurn_cases (s : State) :
    ((s.rst = true ∨ s.inflight = none) ∧ mauTurn s = .next s) ∨
    (∃ f e, s.rst = false ∧ s.inflight = some f ∧ decodeWord f.word = .error e ∧
      mauTurn s = .next (s.raise .illegalCommand)) ∨
    (∃ f i, s.rst = false ∧ s.inflight = some f ∧ decodeWord f.word = .ok i ∧ mauTurn s = exec i s) := by
  unfold mauTurn
  cases hr : s.rst with
  | true => exact .inl ⟨.inl rfl, rfl⟩
  | false =>
    cases hf : s.inflight with
    | none => exact .inl ⟨.inr rfl, rfl⟩
    | some f =>
      cases hd : decodeWord f.word with
      | error e => exact .inr (.inl ⟨f, e, rfl, rfl, hd, by simp [runWord, hd, State.commitError]⟩)
      | ok i => exact .inr (.inr ⟨f, i, rfl, rfl, hd, by simp [runWord, hd]⟩)

/-! ### The snapshot (30_encoding.md R91) -/

/-- A snapshot depends on the registers, the tags and IMM only. -/
theorem State.snapshot_congr {s t : State} (hr : t.regs = s.regs) (hn : t.nn = s.nn) (hi : t.imm = s.imm)
    (c : CmdWord) : t.snapshot c = s.snapshot c := by
  have ho : ∀ r, t.operand r = s.operand r := State.operand_congr hr hn
  simp only [State.snapshot, ho, hi]

theorem State.snapshot_word (s : State) (c : CmdWord) : (s.snapshot c).word = c := by
  unfold State.snapshot
  dsimp only
  split <;> rfl

/-! ### The end of a run (70_reset R248) -/

/-- A run whose last command has not completed has not ended (R248). -/
theorem State.not_runEnded_of_inflight {s : State} (h : s.Inv) {f : InFlight} (hf : s.inflight = some f) :
    ¬ s.runEnded := by
  intro he
  have := h.busy_iff
  rw [he.2, hf] at this
  cases this

/-- Once a run has ended, a step that takes no level of rst keeps the observation, and the run stays ended. -/
theorem State.runEnded_step {s t : State} (h : s.Inv) (he : s.runEnded)
    (hr : ∀ level rest, s.inputs ≠ .rst level :: rest) (hs : step s = .next t) :
    t.observe = s.observe ∧ t.runEnded := by
  have hf : s.inflight = none := by
    cases hf : s.inflight with
    | none => rfl
    | some f => exact absurd he (State.not_runEnded_of_inflight h hf)
  have idle : ∀ u : State, u.inflight = none → mauTurn u = .next u := by
    intro u hu
    simp [mauTurn, hu]
  cases hi : s.inputs with
  | nil =>
    rw [step_nil s hi, idle s hf] at hs
    cases hs
    exact ⟨rfl, he⟩
  | cons i rest =>
    have hm : i = .mau := by
      have hn := he.1 i (by simp [hi])
      cases i with
      | mau => rfl
      | rst level => exact absurd hi (hr level rest)
      | read | write => cases hn
    subst hm
    rw [step_cons s _ rest hi] at hs
    simp only [serve] at hs
    rw [idle { s with inputs := rest } hf] at hs
    cases hs
    exact ⟨rfl, fun j hj => he.1 j (by simp [hi, hj]), he.2⟩

/-- A run ends in one state at most. -/
theorem State.RunEndsIn.unique {s t u : State} (ht : s.RunEndsIn t) (hu : s.RunEndsIn u) : t = u := by
  obtain ⟨n, h1, h2, h3⟩ := ht
  obtain ⟨m, k1, k2, k3⟩ := hu
  obtain h | h | h := Nat.lt_trichotomy n m
  · exact absurd h2 (k3 n h t h1)
  · subst h
    rw [h1] at k1
    injection k1
  · exact absurd k2 (h3 m h u k1)

end Sys2Proof.Machine
end

