-- ==== Sys2Proof/Tests/Slice0.lean ====
section
/-! SUPPORT. The model's own tests: the well-formedness smoke, one word per command decoded, vectors of
95_test_vectors.md (the identifiers in the comments), and for every obligation with hypotheses a witness that meets
them. Every expected value is the spec's. -/

set_option exponentiation.threshold 600
set_option Elab.async false

open Sys2Proof Sys2Proof.Machine Sys2Proof.Claim

namespace Sys2Proof.Tests

/-! ### Helpers -/

/-- The state after reset with these registers and tags. -/
def withRegs (l : List (Reg × Nat × Bool)) : State :=
  l.foldl (fun s e => s.writeOperand e.1 ⟨BitVec.ofNat 512 e.2.1, e.2.2⟩) State.reset

/-- R1 and R2, both non-negative. -/
def two (a b : Nat) : State := withRegs [(1, a, true), (2, b, true)]

/-- R1, R2 and the modulus in R15. -/
def three (a b p : Nat) : State := withRegs [(1, a, true), (2, b, true), (15, p, true)]

/-- R1 and R2 with tags. -/
def signs (a : Nat) (na : Bool) (b : Nat) (nb : Bool) : State := withRegs [(1, a, na), (2, b, nb)]

/-- IMM. -/
def withImm (v : Nat) : State := { State.reset with imm := BitVec.ofNat 64 v }

/-- y^2 = x^3 + 3 modulo 7, with the point (1, 2). -/
def curve7 : Curve := ⟨7#256, 0#256, 3#256, 1#256, 2#256⟩

/-- A curve modulo 15, for the common factors. -/
def curve15 : Curve := ⟨15#256, 0#256, 7#256, 1#256, 2#256⟩

/-- R1 and R2 of a unit with another CURVE. -/
def onCurve15 (a b : Nat) : State := { two a b with curve := curve15 }

/-- A point as the 512 bits of a register. -/
def pt (x y : Nat) : Nat := y * 2 ^ 256 + x

/-- The generator of the default curve. -/
def G : Nat := pt Config.curve.gx Config.curve.gy

/-- The next state, if the outcome is one. -/
def nextOf (r : Result) : Option State :=
  match r with
  | .next t => some t
  | .fault _ => none
  | .refused _ => none

/-- The command leaves this value and tag in this register, with STATUS = 0x002. -/
def wrote (i : Instr) (s : State) (r : Reg) (v : Nat) (nn : Bool) : Bool :=
  (nextOf (exec i s)).any fun t =>
    t.reg r == BitVec.ofNat 512 v && t.tag r == nn && t.status == ⟨false, true, false, false, 0#8⟩

/-- The command ends in this error, and registers and tags stay. -/
def failed (i : Instr) (s : State) (code : Nat) : Bool :=
  (nextOf (exec i s)).any fun t =>
    t.regs == s.regs && t.nn == s.nn && t.status == ⟨false, true, true, false, BitVec.ofNat 8 code⟩

/-- The command leaves these flags, and registers stay. -/
def flagged (i : Instr) (s : State) (lt eq gt odd : Bool) : Bool :=
  (nextOf (exec i s)).any fun t => t.flags == ⟨lt, eq, gt, odd⟩ && t.regs == s.regs

/-- The state after these inputs. -/
def after (l : List Input) (s : State) : Option State :=
  nextOf (Host.Core.run Sys2Proof.core l.length { s with inputs := l })

/-- The bytes the last read returned, after these inputs. -/
def lastRead (l : List Input) (s : State) : Option (List Nat) :=
  (after l s).map fun t => t.readData.map BitVec.toNat

/-! ### Well-formedness: each check refuses -/

theorem test_wellFormed_accepts : Fields.wellFormed .DAB ⟨0x20#8, 3#4, 1#4, 2#4, 0#4, 0#8⟩ = true := by decide
theorem test_wellFormed_refuses_rsv : Fields.wellFormed .DAB ⟨0x20#8, 0#4, 0#4, 0#4, 0#4, 1#8⟩ = false := by decide
theorem test_wellFormed_refuses_rd : Fields.wellFormed .AB ⟨0x66#8, 15#4, 15#4, 15#4, 0#4, 0#8⟩ = false := by decide
theorem test_wellFormed_refuses_rs1 : Fields.wellFormed .D ⟨0x10#8, 0#4, 1#4, 0#4, 0#4, 0#8⟩ = false := by decide
theorem test_wellFormed_refuses_rs2 : Fields.wellFormed .DAM ⟨0x54#8, 1#4, 0#4, 1#4, 0#4, 0#8⟩ = false := by decide
theorem test_wellFormed_refuses_rs3 : Fields.wellFormed .DAB ⟨0x20#8, 3#4, 1#4, 2#4, 15#4, 0#8⟩ = false := by decide

/-! ### Decoding: one word per command, laid out by R80 (RSV, RS3, RS2, RS1, RD, OP) -/

theorem test_decode_bit_by_bit_unsigned :
    decodeWord 0b00000000_0000_0010_0001_0011_00100000#32 = .ok (.uadd256 3 1 2) := by decide
theorem test_decode_bit_by_bit_signed :
    decodeWord 0b00000000_0000_0010_0001_0011_01000101#32 = .ok (.sdiv 3 1 2) := by decide
theorem test_decode_bit_by_bit_modular :
    decodeWord 0b00000000_1111_0010_0001_0011_01010000#32 = .ok (.madd 3 1 2 15) := by decide
theorem test_decode_bit_by_bit_curve :
    decodeWord 0b00000000_0000_1010_1001_1000_01100101#32 = .ok (.pmul 8 9 10) := by decide

theorem test_decode_constructors :
    decodeWord 0x00000F10#32 = .ok (.uzero256 15) ∧ decodeWord 0x00000211#32 = .ok (.uzero512 2) ∧
    decodeWord 0x00000112#32 = .ok (.uone256 1) ∧ decodeWord 0x00000113#32 = .ok (.uone512 1) ∧
    decodeWord 0x00000114#32 = .ok (.umax256 1) ∧ decodeWord 0x00000115#32 = .ok (.umax512 1) ∧
    decodeWord 0x00000416#32 = .ok (.ufromu64_256 4) ∧ decodeWord 0x00000417#32 = .ok (.ufromu64_512 4) ∧
    decodeWord 0x00000418#32 = .ok (.ufromi64_256 4) ∧ decodeWord 0x00000419#32 = .ok (.ufromi64_512 4) ∧
    decodeWord 0x0000041A#32 = .ok (.ufromu32_256 4) ∧ decodeWord 0x0000041B#32 = .ok (.ufromu32_512 4) ∧
    decodeWord 0x0000041C#32 = .ok (.ufromi32_256 4) ∧ decodeWord 0x0000041D#32 = .ok (.ufromi32_512 4) ∧
    decodeWord 0x0000121E#32 = .ok (.uwiden 2 1) ∧ decodeWord 0x0000231F#32 = .ok (.unarrow 3 2) := by
  decide +kernel

theorem test_decode_unsigned :
    decodeWord 0x00021320#32 = .ok (.uadd256 3 1 2) ∧ decodeWord 0x00021321#32 = .ok (.uadd512 3 1 2) ∧
    decodeWord 0x00021322#32 = .ok (.usub256 3 1 2) ∧ decodeWord 0x00021323#32 = .ok (.usub512 3 1 2) ∧
    decodeWord 0x00021324#32 = .ok (.umul256 3 1 2) ∧ decodeWord 0x00012325#32 = .ok (.umul512 3 2 1) ∧
    decodeWord 0x00021326#32 = .ok (.udiv256 3 1 2) ∧ decodeWord 0x00011327#32 = .ok (.udiv512 3 1 1) ∧
    decodeWord 0x00021028#32 = .ok (.ucmp256 1 2) ∧ decodeWord 0x00021029#32 = .ok (.ucmp512 1 2) ∧
    decodeWord 0x0000122A#32 = .ok (.udigits256 2 1) ∧ decodeWord 0x0000122B#32 = .ok (.udigits512 2 1) ∧
    decodeWord 0x0000102C#32 = .ok (.uodd 1) ∧ decodeWord 0x0000002E#32 = .ok .uparse256 ∧
    decodeWord 0x0000002F#32 = .ok .uparse512 := by
  decide +kernel

theorem test_decode_signed :
    decodeWord 0x00001240#32 = .ok (.sneg 2 1) ∧ decodeWord 0x00021041#32 = .ok (.scmp 1 2) ∧
    decodeWord 0x00021342#32 = .ok (.sadd 3 1 2) ∧ decodeWord 0x00021343#32 = .ok (.ssub 3 1 2) ∧
    decodeWord 0x00021344#32 = .ok (.smul 3 1 2) ∧ decodeWord 0x00021345#32 = .ok (.sdiv 3 1 2) ∧
    decodeWord 0x00001246#32 = .ok (.sfromu 2 1) ∧ decodeWord 0x00000247#32 = .ok (.sfromi64 2) := by
  decide +kernel

theorem test_decode_modular_and_curve :
    decodeWord 0x00F21350#32 = .ok (.madd 3 1 2 15) ∧ decodeWord 0x00F21351#32 = .ok (.msub 3 1 2 15) ∧
    decodeWord 0x00F21352#32 = .ok (.mmul 3 1 2 15) ∧ decodeWord 0x00F21453#32 = .ok (.mdiv 4 1 2 15) ∧
    decodeWord 0x00100154#32 = .ok (.minv 1 0 1) ∧ decodeWord 0x00000160#32 = .ok (.pgen 1) ∧
    decodeWord 0x00021361#32 = .ok (.pmakeu 3 1 2) ∧ decodeWord 0x00021362#32 = .ok (.pmake 3 1 2) ∧
    decodeWord 0x00001263#32 = .ok (.pdbl 2 1) ∧ decodeWord 0x00021364#32 = .ok (.padd 3 1 2) ∧
    decodeWord 0x00021365#32 = .ok (.pmul 3 1 2) ∧ decodeWord 0x00021066#32 = .ok (.peq 1 2) := by
  decide +kernel

/-- V-E-1 to V-E-7, V-E-9, V-E-11: illegal words, by name. -/
theorem test_decode_illegal :
    decodeWord 0x00000000#32 = .error .reservedOpcode ∧ decodeWord 0x0000002D#32 = .error .reservedOpcode ∧
    decodeWord 0x000000FF#32 = .error .reservedOpcode ∧ decodeWord 0x00000030#32 = .error .reservedOpcode ∧
    decodeWord 0x01000020#32 = .error .reservedBitsSet ∧ decodeWord 0x00001010#32 = .error .unusedFieldSet ∧
    decodeWord 0x00F21320#32 = .error .unusedFieldSet ∧ decodeWord 0x00010154#32 = .error .unusedFieldSet ∧
    decodeWord 0x00FFFF66#32 = .error .unusedFieldSet ∧ decodeBytes [0x20#8] = .error .notOneWord := by
  decide +kernel

theorem test_decodeTableWord : decodeTableWord 32 0x00021320 = some (.uadd256 3 1 2) := by decide +kernel

theorem test_withFetchWord_runs_the_word :
    (nextOf (step ((two 5 6).withFetchWord 32 0x00021320))).map (fun t => (t.reg 3, t.inputs)) = some (11#512, []) := by
  decide +kernel

/-! ### Commands: vectors V-U, V-S, V-M, V-EC -/

theorem test_uzero256 : wrote (.uzero256 2) (withRegs [(2, 2 ^ 512 - 1, false)]) 2 0 true = true := by decide +kernel
theorem test_uzero512 : wrote (.uzero512 2) (withRegs [(2, 2 ^ 512 - 1, false)]) 2 0 true = true := by decide +kernel
theorem test_uone256 : wrote (.uone256 1) (two (2 ^ 300) 0) 1 1 true = true := by decide +kernel
theorem test_uone512 : wrote (.uone512 1) (two (2 ^ 300) 0) 1 1 true = true := by decide +kernel
theorem test_umax256 : wrote (.umax256 1) State.reset 1 (2 ^ 256 - 1) true = true := by decide +kernel
theorem test_umax512 : wrote (.umax512 1) State.reset 1 (2 ^ 512 - 1) true = true := by decide +kernel
theorem test_ufromu64_256 :
    wrote (.ufromu64_256 4) (withImm 0xFFFFFFFFFFFFFFFF) 4 18446744073709551615 true = true := by decide +kernel
theorem test_ufromu64_512 :
    wrote (.ufromu64_512 4) (withImm 0xFFFFFFFFFFFFFFFF) 4 18446744073709551615 true = true := by decide +kernel
theorem test_ufromi64_256 : wrote (.ufromi64_256 4) (withImm 0xFFFFFFFFFFFFFFFB) 4 5 true = true := by decide +kernel
theorem test_ufromi64_512 :
    wrote (.ufromi64_512 4) (withImm 0x8000000000000000) 4 9223372036854775808 true = true := by decide +kernel
theorem test_ufromu32_256 : wrote (.ufromu32_256 4) (withImm 0x0000000100000005) 4 5 true = true := by decide +kernel
theorem test_ufromu32_512 : wrote (.ufromu32_512 4) (withImm 0x0000000100000005) 4 5 true = true := by decide +kernel
theorem test_ufromi32_256 :
    wrote (.ufromi32_256 4) (withImm 0xFFFFFFFF80000000) 4 2147483648 true = true := by decide +kernel
theorem test_ufromi32_512 : wrote (.ufromi32_512 4) (withImm 0x00000000FFFFFFFF) 4 1 true = true := by decide +kernel
theorem test_uwiden : wrote (.uwiden 2 1) (two (2 ^ 256 + 5) 0) 2 5 true = true := by decide +kernel
theorem test_unarrow : wrote (.unarrow 2 1) (two (2 ^ 256 - 1) 0) 2 (2 ^ 256 - 1) true = true := by decide +kernel
theorem test_unarrow_raises : failed (.unarrow 2 1) (two (2 ^ 256) 9) 5 = true := by decide +kernel
theorem test_uadd256 : wrote (.uadd256 3 1 2) (two (2 ^ 256 - 1) 2) 3 1 true = true := by decide +kernel
theorem test_uadd512 : wrote (.uadd512 3 1 2) (two (2 ^ 256 - 1) 1) 3 (2 ^ 256) true = true := by decide +kernel
theorem test_usub256 : wrote (.usub256 3 1 2) (two 0 1) 3 (2 ^ 256 - 1) true = true := by decide +kernel
theorem test_usub512 : wrote (.usub512 3 1 2) (two 0 1) 3 (2 ^ 512 - 1) true = true := by decide +kernel
theorem test_umul256 : wrote (.umul256 3 1 2) (two (2 ^ 256 - 1) (2 ^ 256 - 1)) 3 1 true = true := by decide +kernel
theorem test_umul512 : wrote (.umul512 3 1 2) (two (2 ^ 128) (2 ^ 128)) 3 (2 ^ 256) true = true := by decide +kernel
theorem test_udiv256 :
    wrote (.udiv256 3 1 2) (two 0x300000000000000000000000000000000000000000000000005 (2 ^ 130 + 1)) 3
      0xbfffffffffffffffff true = true := by decide +kernel
theorem test_udiv256_raises : failed (.udiv256 3 1 2) (two 9 (2 ^ 256)) 1 = true := by decide +kernel
theorem test_udiv512 :
    wrote (.udiv512 3 1 2) (two (2 ^ 512 - 1) (2 ^ 256 - 1)) 3 (2 ^ 256 + 1) true = true := by decide +kernel
theorem test_ucmp256 : flagged (.ucmp256 1 2) (two (2 ^ 256 + 1) 1) false true false false = true := by decide +kernel
theorem test_ucmp512 : flagged (.ucmp512 1 2) (two (2 ^ 256 + 1) 1) false false true false = true := by decide +kernel
theorem test_udigits256 : wrote (.udigits256 2 1) (two (2 ^ 64) 0) 2 2 true = true := by decide +kernel
theorem test_udigits512 : wrote (.udigits512 2 1) (two (2 ^ 512 - 1) 0) 2 8 true = true := by decide +kernel
theorem test_uodd : flagged (.uodd 1) (two 7 0) false false false true = true := by decide +kernel
theorem test_uparse256 : failed .uparse256 State.reset 4 = true := by decide +kernel
theorem test_uparse512 : failed .uparse512 State.reset 4 = true := by decide +kernel

theorem test_sneg : wrote (.sneg 2 1) (two 5 0) 2 5 false = true := by decide +kernel
theorem test_scmp_zeros : flagged (.scmp 1 2) (signs 0 false 0 true) false true false false = true := by decide +kernel
theorem test_scmp_negatives :
    flagged (.scmp 1 2) (signs 3 false 5 false) false false true false = true := by decide +kernel
theorem test_sadd_tie : wrote (.sadd 3 1 2) (signs 3 false 3 true) 3 0 false = true := by decide +kernel
theorem test_sadd_wraps : wrote (.sadd 3 1 2) (signs (2 ^ 512 - 1) false 2 false) 3 1 false = true := by decide +kernel
theorem test_ssub : wrote (.ssub 3 1 2) (signs 2 true 5 true) 3 3 false = true := by decide +kernel
theorem test_smul : wrote (.smul 3 1 2) (signs 3 false 4 true) 3 12 false = true := by decide +kernel
theorem test_sdiv : wrote (.sdiv 3 1 2) (signs 7 false 2 true) 3 3 false = true := by decide +kernel
theorem test_sdiv_raises : failed (.sdiv 3 1 2) (signs 7 true 0 false) 1 = true := by decide +kernel
theorem test_sfromu : wrote (.sfromu 2 1) (signs 9 false 0 true) 2 9 true = true := by decide +kernel
theorem test_sfromi64 : wrote (.sfromi64 2) (withImm 0xFFFFFFFFFFFFFFFD) 2 3 false = true := by decide +kernel

theorem test_madd : wrote (.madd 3 1 2 15) (three 20 0 7) 3 13 true = true := by decide +kernel
theorem test_madd_raises : failed (.madd 3 1 2 15) (three (2 ^ 256 - 1) (2 ^ 256 - 1) 7) 5 = true := by decide +kernel
theorem test_msub : wrote (.msub 3 1 2 15) (three 2 5 7) 3 4 true = true := by decide +kernel
theorem test_msub_raises : failed (.msub 3 1 2 15) (three 3 11 7) 5 = true := by decide +kernel
theorem test_mmul :
    wrote (.mmul 3 1 2 15) (three (2 ^ 256 - 1) (2 ^ 256 - 1) 7) 3 1 true = true := by decide +kernel
theorem test_mmul_raises : failed (.mmul 3 1 2 15) (three 0 0 0) 1 = true := by decide +kernel
theorem test_mdiv : wrote (.mdiv 4 1 2 15) (three 3 10 7) 4 1 true = true := by decide +kernel
theorem test_mdiv_raises : failed (.mdiv 4 1 2 15) (three 1 14 7) 2 = true := by decide +kernel
theorem test_minv :
    wrote (.minv 2 1 15) (three 2 0 Config.curve.p) 2
      0x7fffffffffffffffffffffffffffffffffffffffffffffffffffffff7ffffe18 true = true := by decide +kernel
theorem test_minv_one : wrote (.minv 2 1 15) (three 5 0 1) 2 0 true = true := by decide +kernel

/-- 2G, the document's vector. -/
def G2 : Nat :=
  pt 0xc6047f9441ed7d6d3045406e95c07cd85c778e4b8cef3ca7abac09b95c709ee5
    0x1ae168fea63dc339a3c58419466ceaeef7f632653266d0e1236431a950cfe52a

/-- 3G. -/
def G3 : Nat :=
  pt 0xf9308a019258c31049344f85f89d5229b531c845836f99b08601f113bce036f9
    0x388f7b0f632de8140fe337e62a37f3566500a99934c2231b6cb9fd7584b8e672

theorem test_pgen : wrote (.pgen 1) State.reset 1 G true = true := by decide +kernel
/-- R8: a unit with another CURVE. -/
theorem test_pgen_of_another_curve :
    wrote (.pgen 1) { State.reset with curve := curve7 } 1 (pt 1 2) true = true := by decide +kernel
theorem test_pmakeu : wrote (.pmakeu 3 1 2) (two 5 0) 3 (pt 5 0) true = true := by decide +kernel
theorem test_pmake : wrote (.pmake 3 1 2) (two Config.curve.gx Config.curve.gy) 3 G true = true := by decide +kernel
theorem test_pmake_raises : failed (.pmake 3 1 2) (two Config.curve.gx (Config.curve.gy + 1)) 6 = true := by
  decide +kernel
theorem test_pdbl : wrote (.pdbl 2 1) (two G 0) 2 G2 true = true := by decide +kernel
/-- 2 (1, 2) on y^2 = x^3 + 3 modulo 7: slope 3 / 4 = 6, x' = 36 - 2, y' = 6 (1 - 6) - 2 (R184). -/
theorem test_pdbl_of_another_curve :
    wrote (.pdbl 2 1) { two (pt 1 2) 0 with curve := curve7 } 2 (pt 6 3) true = true := by decide +kernel
theorem test_pdbl_raises : failed (.pdbl 3 1) (two (pt 5 Config.curve.p) 0) 1 = true := by decide +kernel
theorem test_padd : wrote (.padd 3 1 2) (two G G2) 3 G3 true = true := by decide +kernel
theorem test_padd_raises : failed (.padd 3 1 1) (two G 0) 3 = true := by decide +kernel
theorem test_pmul : wrote (.pmul 3 1 2) (two 3 G) 3 G3 true = true := by decide +kernel
theorem test_pmul_raises : failed (.pmul 3 1 2) (two 0 G) 3 = true := by decide +kernel
theorem test_peq : flagged (.peq 1 2) (two G G) false true false false = true := by decide +kernel

/-! ### The window: vectors V-IO -/

/-- V-IO-1, V-IO-2: ID. -/
theorem test_read_id : lastRead [HostOp.rd 0x000] State.reset = some [0x01, 0x10, 0x01, 0, 0, 0, 0, 0] := by
  decide +kernel
/-- V-IO-3. -/
theorem test_half_reads :
    lastRead [HostOp.wr 0x400 0x0123456789ABCDEF, .read (.off 0x404) 4] State.reset
      = some [0x67, 0x45, 0x23, 0x01] := by decide +kernel
/-- V-IO-4. -/
theorem test_half_writes :
    (after [.write (.off 0x448) 4 0x11223344, .write (.off 0x44C) 4 0x55667788] State.reset).map (State.reg · 1)
      = some (BitVec.ofNat 512 (0x5566778811223344 * 2 ^ 64)) := by decide +kernel
/-- V-IO-6. -/
theorem test_malformed_write : after [.write (.off 0x028) 2 0xFFFF] State.reset = some State.reset := by decide +kernel
/-- V-IO-11. -/
theorem test_signs :
    lastRead [HostOp.wr 0x030 0xFFFF0005, HostOp.rd 0x030] State.reset = some [5, 0, 0, 0, 0, 0, 0, 0] := by
  decide +kernel
/-- V-IO-13. -/
theorem test_command_write :
    lastRead [HostOp.wr 0x018 0xDEADBEEF00000112, .mau, HostOp.rd 0x018] State.reset
      = some [0x12, 1, 0, 0, 0, 0, 0, 0] := by decide +kernel
/-- V-IO-14. -/
theorem test_upper_command_half : after [.write (.off 0x01C) 4 0x112] State.reset = some State.reset := by
  decide +kernel
/-- V-IO-15 to V-IO-17, after V-U-28. -/
theorem test_status_after_error :
    let run := [HostOp.wr 0x018 0x00021326, .mau]
    lastRead (run ++ [HostOp.rd 0x010]) (two 7 0) = some [0x06, 0x01, 0, 0, 0, 0, 0, 0] ∧
    lastRead (run ++ [HostOp.wr 0x010 2, HostOp.rd 0x010]) (two 7 0) = some [0x04, 0x01, 0, 0, 0, 0, 0, 0] ∧
    lastRead (run ++ [HostOp.wr 0x010 4, HostOp.rd 0x010]) (two 7 0) = some [0x02, 0, 0, 0, 0, 0, 0, 0] ∧
    lastRead (run ++ [HostOp.wr 0x018 0x112, HostOp.rd 0x010]) (two 7 0) = some [0x0E, 0x01, 0, 0, 0, 0, 0, 0] := by
  decide +kernel
/-- R230, R232: reset while a command is in flight. -/
theorem test_reset_while_busy :
    after [HostOp.wr 0x018 0x112, .rst true, HostOp.wr 0x028 7, .rst false] State.reset = some State.reset := by
  decide +kernel

/-- R248: UONE.256 r1 completes, and the run has ended, before the level of rst that still waits. -/
theorem test_run_ends_before_a_waiting_reset :
    ∃ t, State.RunEndsIn { State.reset with inputs := [HostOp.wr 0x018 0x112, .mau, .rst true] } t ∧
      t.reg 1 = 1#512 ∧ t.inputs = [.rst true] := by
  refine ⟨_, ⟨2, rfl, ?_, ?_⟩, ?_, rfl⟩
  · exact ⟨by decide +kernel, by decide +kernel⟩
  · intro m hm u hu he
    match m, hm with
    | 0, _ => cases hu; exact absurd (he.1 _ (List.mem_cons_self ..)) (by decide)
    | 1, _ => cases hu; exact absurd he.2 (by decide +kernel)
  · decide +kernel

/-! ### Witnesses: states and operands that meet each obligation's hypotheses -/

/-- UADD.256 r3, r1, r2 in flight, with R1 = 5 and R2 = 6. -/
def busyAdd : State := (two 5 6).accept 0x00021320#32

/-- The in-flight part of `busyAdd`. -/
def flightAdd : InFlight := (two 5 6).snapshot 0x00021320#32

/-- An illegal word in flight. -/
def busyIllegal : State := State.reset.accept 0x00000000#32

/-- A state with ERR = 1. -/
def inError : State := { State.reset with status := ⟨false, true, true, false, 1#8⟩ }

theorem busyAdd_inv : busyAdd.Inv where
  busy_iff := by decide +kernel
  busy_clear := by decide +kernel
  no_err_code := by decide +kernel
  err_code := by decide +kernel
  snapshot := by
    intro f h
    have e : busyAdd.inflight = some flightAdd := by decide +kernel
    rw [e] at h
    injection h with h
    subst h
    decide +kernel
  flags_one := by decide +kernel
  in_reset := by decide +kernel

theorem witness_EveryStepKeepsTheInvariant : busyAdd.Inv ∧ (nextOf (step busyAdd)).isSome = true :=
  ⟨busyAdd_inv, by decide +kernel⟩

theorem witness_StatusAndFlagRelationsAreKept : busyAdd.Inv ∧ (nextOf (step busyAdd)).isSome = true :=
  ⟨busyAdd_inv, by decide +kernel⟩

theorem witness_EncodingADecodedWordGivesItBack : decodeWord 0x00F01254#32 = .ok (.minv 2 1 15) := by decide +kernel

theorem witness_IllegalWordsCompleteWithIllegalCommand :
    State.reset.status.busy = false ∧ State.reset.status.err = false ∧ busyIllegal.rst = false ∧
    busyIllegal.inflight = some ⟨0#32, none, none, none, none⟩ ∧
    ([0x0000000F#32, 0x0000002D#32, 0x00000030#32, 0x0000003F#32, 0x00000048#32, 0x0000004F#32, 0x00000055#32,
      0x0000005F#32, 0x00000067#32, 0x000000FF#32, 0x01000010#32, 0x00001010#32].all
      fun w => (decodeWord w).toOption == none) = true := by decide +kernel

theorem witness_StepRunsTheDecodedCommand :
    busyAdd.rst = false ∧ busyAdd.inflight = some flightAdd ∧ decodeWord flightAdd.word = .ok (.uadd256 3 1 2) ∧
    busyAdd.inputs = [] ∧ ({ busyAdd with inputs := [.mau] } : State).inputs = .mau :: [] := by decide +kernel

theorem witness_CommandWriteIsAcceptedOrRejected :
    (∀ s ∈ [busyAdd, inError, State.reset], s.rst = false) ∧ busyAdd.status.busy = true ∧
    busyAdd.status.err = false ∧ inError.status.busy = false ∧ inError.status.err = true ∧
    State.reset.status.busy = false ∧ State.reset.status.err = false ∧
    (∀ n ∈ [4, 8], (n = 4 ∨ n = 8) ∧ ({ State.reset with inputs := [.write (.off 0x018) n 0x112] } : State).inputs =
      .write (.off 0x018) n 0x112 :: []) ∧
    ({ busyAdd with inputs := [.write (.off 0x01C) 4 0x112] } : State).inputs =
      .write (.off 0x01C) 4 0x112 :: [] := by decide +kernel

theorem witness_AcceptedCommandComputesFromTheRegisters : (two 5 6).inflight = none := by decide +kernel

theorem witness_HostAccessesWhileBusyCannotChangeTheResult :
    (two 5 6).rst = false ∧ (two 5 6).status.err = false ∧ (two 5 6).status.errcode = 0#8 ∧
    (∀ i ∈ [HostOp.wr 0x440 9, HostOp.rd 0x7F8, HostOp.wr 0x018 0x112, HostOp.wr 0x008 1, HostOp.wr 0x010 0xF],
      i.isAccess = true) := by decide +kernel

theorem witness_EveryCommandInFlightCompletes :
    busyAdd.Inv ∧ busyAdd.status.busy = true ∧ (∀ i ∈ busyAdd.inputs, i.isAccess = true ∨ i = .mau) ∧
    (∀ i ∈ [HostOp.wr 0x440 9, .mau], i.isAccess = true ∨ i = .mau) :=
  ⟨busyAdd_inv, by decide +kernel, by decide +kernel, by decide +kernel⟩

theorem witness_HostReadReturnsTheMapWord :
    State.reset.rst = false ∧ (0x7F8 < 0x800 ∧ (8 = 8 ∧ 0x7F8 % 8 = 0)) ∧ (0x7FC < 0x800 ∧ (4 = 4 ∧ 0x7FC % 4 = 0)) ∧
    ({ State.reset with inputs := [HostOp.rd 0x7F8] } : State).inputs = .read (.off 0x7F8) 8 :: [] := by decide +kernel

theorem witness_MalformedAccessesAreHarmless :
    0x7FF < 0x800 ∧ ¬ WellFormedAccess 0x7FF 1 ∧ ¬ WellFormedAccess 0x00C 8 ∧ ¬ WellFormedAccess 0x028 2 ∧
    ({ State.reset with inputs := [.write (.off 0x028) 2 0xFFFF] } : State).inputs =
      .write (.off 0x028) 2 0xFFFF :: [] ∧
    ({ State.reset with inputs := [.read (.off 0x00C) 8] } : State).inputs = .read (.off 0x00C) 8 :: [] := by
  unfold WellFormedAccess
  decide +kernel

theorem witness_RegisterFileWriteStoresItsBytes :
    State.reset.rst = false ∧ State.reset.status.busy = false ∧ 0x7FC < 0x800 ∧ WellFormedAccess 0x400 8 ∧
    WellFormedAccess 0x7FC 4 ∧
    ({ State.reset with inputs := [.write (.off 0x7FC) 4 7] } : State).inputs = .write (.off 0x7FC) 4 7 :: [] := by
  unfold WellFormedAccess
  decide +kernel

theorem witness_TwoHalfWritesEqualOneLimbWrite : 2 ^ 32 - 1 < 2 ^ 32 ∧ 0 < 2 ^ 32 := by decide +kernel

theorem witness_ControlWordWritesTakeEffect :
    State.reset.rst = false ∧ State.reset.status.busy = false ∧ (4 = 4 ∨ 4 = 8) ∧ (8 = 4 ∨ 8 = 8) ∧
    (31 < 64 ∧ 31 < 32) ∧ (32 < 64 ∧ ¬ 32 < 32) ∧ 63 < 64 ∧ 15 < 16 ∧
    (0x038 ≤ 0x038 ∧ 0x038 < 0x400) ∧ (0x038 ≤ 0x3FF ∧ 0x3FF < 0x400) ∧
    (busyAdd.rst = false ∧ busyAdd.status.busy = true) := by decide +kernel

theorem witness_RejectedWritesOnlySetRej :
    busyAdd.rst = false ∧ busyAdd.status.busy = true ∧ inError.rst = false ∧ inError.status.err = true ∧
    (∀ off ∈ [0x028, 0x030, 0x400, 0x7F8, 0x018, 0x008], off < 0x800 ∧ (8 = 8 ∧ off % 8 = 0)) ∧
    (0x034 < 0x800 ∧ (4 = 4 ∧ 0x034 % 4 = 0)) := by decide +kernel

theorem witness_RejStaysSetUntilCleared :
    State.reset.reject.status.rej = true ∧
    (∀ l ∈ [[], [HostOp.wr 0x010 0x8], [.rst true], [HostOp.wr 0x010 0x6]],
      (nextOf (step { State.reset.reject with inputs := l })).isSome = true) := by decide +kernel

theorem witness_StatusWriteClearsTheWrittenOnes : inError.rst = false ∧ (4 = 4 ∨ 4 = 8) ∧ (8 = 4 ∨ 8 = 8) := by
  decide +kernel

theorem witness_ReadsAndPlainWritesAreIdempotent :
    0x7FF < 0x800 ∧ ¬ (0x010 ≤ 0x00F ∧ 0x00F < 0x020) ∧ ¬ (0x010 ≤ 0x020 ∧ 0x020 < 0x020) := by decide +kernel

theorem witness_ResetInputRestoresTheResetState :
    (State.reset.setRst true).rst = true ∧ 0x7FF < 0x800 ∧ (State.reset.setRst true).inputs = [] ∧
    ({ busyAdd with inputs := [.rst true] } : State).inputs = .rst true :: [] ∧
    ({ State.reset.setRst true with inputs := [.rst false] } : State).inputs = .rst false :: [] ∧
    ({ State.reset.setRst true with inputs := [HostOp.wr 0x028 7] } : State).inputs = .write (.off 0x028) 8 7 :: [] ∧
    ({ State.reset.setRst true with inputs := [HostOp.rd 0x028] } : State).inputs = .read (.off 0x028) 8 :: [] := by
  decide +kernel

theorem witness_InterruptLineFollowsDoneAndIen :
    State.reset.rst = false ∧ Nat.testBit 0x2 1 = true ∧ Nat.testBit 0x0 0 = false := by decide +kernel

theorem witness_AccessOutsideTheWindowStops :
    0x800 ≤ 0x800 ∧ 0x7FF < 0x800 ∧ Config.mauBase + 0x800 ≤ Config.mauBase + 0x800 ∧
    ({ State.reset with inputs := [HostOp.rd 0x800] } : State).inputs = .read (.off 0x800) 8 :: [] ∧
    ({ State.reset with inputs := [.write (.bus (Config.mauBase + 0x800)) 8 7] } : State).inputs =
      .write (.bus (Config.mauBase + 0x800)) 8 7 :: [] :=
  ⟨by decide, by decide, Nat.le_refl _, rfl, rfl⟩

theorem witness_LdrLoadsTheRegister :
    inError.rst = false ∧ inError.status.busy = false ∧ 2 ^ 512 - 1 < 2 ^ 512 := by decide +kernel

theorem witness_ExecSequenceRunsTheCommand :
    (two 5 6).rst = false ∧ (two 5 6).status.busy = false ∧ (two 5 6).status.err = false ∧
    (two 5 6).status.errcode = 0#8 ∧ (two 5 6).inflight = none := by decide +kernel

theorem witness_OnlyTheListedErrorsAreReported :
    State.reset.status.err = false ∧
      ((nextOf (exec .uparse256 State.reset)).map fun t => t.status.err) = some true ∧
    State.reset.curve.b < State.reset.curve.p ∧
      ((nextOf (exec (.pmake 3 1 2) State.reset)).map fun t => t.status.err) = some true := by decide +kernel

theorem witness_CommandsChangeOnlyWhatTheyName :
    (nextOf (exec (.ucmp256 1 2) (two 5 6))).isSome = true ∧ (nextOf (exec (.uodd 1) (two 5 6))).isSome = true ∧
    destOf (.uadd256 3 1 2) ≠ some 4 ∧ writesFlags (.uadd256 3 1 2) = false ∧
    (nextOf (exec (.uadd256 3 1 2) (two 5 6))).isSome = true := by decide +kernel

theorem witness_CommandsLeaveOtherWindowWordsUnchanged :
    (nextOf (exec (.uadd256 3 1 2) (two 5 6))).isSome = true ∧ writesFlags (.uadd256 3 1 2) = false ∧
    (∀ off ∈ [0x000, 0x020, 0x4B8, 0x500, 0x7F8], off % 8 = 0 ∧ off < 0x800 ∧ off ≠ 0x010 ∧ off ≠ 0x030 ∧
      ¬ (0x400 + 0x40 * 3 ≤ off ∧ off < 0x440 + 0x40 * 3)) := by decide +kernel

/-- Both sides of UNARROW's bound. -/
theorem witness_WidthConversionsWidenAndNarrow :
    all512 ((two (2 ^ 256 - 1) 0).src1 1) < 2 ^ 256 ∧ 2 ^ 256 ≤ all512 ((two (2 ^ 256) 0).src1 1) := by decide +kernel

theorem witness_UnsignedDivideGivesTheQuotient :
    lo256 ((two 7 (2 ^ 256)).src2 2) = 0 ∧ all512 ((two 7 (2 ^ 256)).src2 2) ≠ 0 ∧ lo256 ((two 7 2).src2 2) ≠ 0 ∧
    all512 ((two 7 0).src2 2) = 0 := by decide +kernel

theorem witness_BothDivisionPathsGiveTheQuotient :
    2 ^ 512 - 1 < 2 ^ Width.w512.bits ∧ 2 ^ 256 - 1 < 2 ^ Width.w512.bits ∧ 3 < 2 ^ Width.w256.bits := by decide +kernel

theorem witness_DigitCountLocatesTheHighestLimb :
    digits .w256 (lo256 ((two (2 ^ 64) 0).src1 1)) ≠ 1 ∧ digits .w512 (all512 ((two (2 ^ 511) 0).src1 1)) ≠ 1 := by
  decide +kernel

theorem witness_UnsignedLaws :
    2 ^ 256 - 1 < 2 ^ Width.w256.bits ∧ (3 : Nat) ≠ 0 ∧ (1 : Nat) ≠ 0 ∧ (2 ^ 254) * 3 < 2 ^ Width.w256.bits ∧
    2 ^ 256 - 1 < 2 ^ Width.w512.bits := by decide +kernel

theorem witness_SignedAddAndSubtractFollowTheCases :
    all512 ((signs 0 false 0 true).src1 1) = 0 ∧ all512 ((signs 7 true 0 false).src2 2) = 0 ∧
    ((signs 3 false 3 true).src1 1).nn ≠ ((signs 3 false 3 true).src2 2).nn := by decide +kernel

theorem witness_SignedMultiplyAndDivide :
    all512 ((signs 7 true 0 false).src2 2) = 0 ∧ all512 ((signs 7 false 2 true).src2 2) ≠ 0 := by decide +kernel

theorem witness_SignedLaws :
    (⟨2 ^ 511 - 1, false⟩ : Signed).m < 2 ^ 511 ∧ (⟨1, true⟩ : Signed).m < 2 ^ 511 ∧
    (2 ^ 511 - 1) * 1 < 2 ^ 512 ∧ (⟨1, true⟩ : Signed).m ≠ 0 := by decide +kernel

/-- With a = 2^256 - 1 and b = 1, p = 1 gives the largest result that fits and p = 0 the smallest that does not. -/
theorem witness_ModularAddSubtractsOnce :
    (let s := three (2 ^ 256 - 1) 1 1
     lo256 (s.src3 15) ≤ lo256 (s.src1 1) + lo256 (s.src2 2) ∧
      lo256 (s.src1 1) + lo256 (s.src2 2) - lo256 (s.src3 15) < 2 ^ 256) ∧
    (let s := three (2 ^ 256 - 1) 1 0
     2 ^ 256 ≤ lo256 (s.src1 1) + lo256 (s.src2 2) - lo256 (s.src3 15)) := by decide +kernel

theorem witness_ModularSubtractBorrowsOnce :
    lo256 ((three 5 5 7).src2 2) ≤ lo256 ((three 5 5 7).src1 1) ∧
    (let s := three 3 10 7
     lo256 (s.src1 1) < lo256 (s.src2 2) ∧ lo256 (s.src2 2) - lo256 (s.src1 1) ≤ lo256 (s.src3 15)) ∧
    (let s := three 3 11 7
     lo256 (s.src1 1) < lo256 (s.src2 2) ∧ lo256 (s.src3 15) < lo256 (s.src2 2) - lo256 (s.src1 1)) := by
  decide +kernel

theorem witness_ModularMultiplyReduces :
    lo256 ((three 3 5 1).src3 15) ≠ 0 ∧ lo256 ((three 3 5 0).src3 15) = 0 := by decide +kernel

theorem witness_ModularInverseIsCorrect :
    2 ^ 256 - 1 < 2 ^ 256 ∧ (4 ≠ 0 ∧ Nat.gcd 4 6 ≠ 1) ∧ (3 ≠ 0 ∧ Nat.gcd 3 7 = 1 ∧ 2 ≤ 7) ∧
    (5 ≠ 0 ∧ Nat.gcd 5 1 = 1 ∧ 1 ≤ 1) ∧ (1 ≠ 0 ∧ Nat.gcd 1 0 = 1 ∧ 0 ≤ 1) := by decide +kernel

theorem witness_ModularDivideAndInverse :
    (let s := three 3 10 7
     lo256 (s.src2 2) ≠ 0 ∧ Nat.gcd (lo256 (s.src2 2)) (lo256 (s.src3 15)) = 1 ∧ lo256 (s.src3 15) ≠ 0) ∧
    lo256 ((three 1 0 7).src2 2) = 0 ∧
    Nat.gcd (lo256 ((three 1 2 0).src2 2)) (lo256 ((three 1 2 0).src3 15)) ≠ 1 ∧
    (lo256 ((three 1 1 0).src2 2) = 1 ∧ lo256 ((three 1 1 0).src3 15) = 0) ∧
    (let s := three 5 0 1
     lo256 (s.src1 1) ≠ 0 ∧ Nat.gcd (lo256 (s.src1 1)) (lo256 (s.src3 15)) = 1 ∧ lo256 (s.src3 15) ≠ 0) := by
  decide +kernel

theorem three_prime : Nat.Prime 3 := by norm_num

theorem witness_PrimeModulusGivesFieldArithmetic :
    lo256 ((three 2 1 3).src3 15) = 3 ∧ Nat.Prime 3 ∧ lo256 ((three 2 1 3).src1 1) < 3 ∧
    lo256 ((three 2 1 3).src2 2) < 3 ∧ lo256 ((three 2 1 3).src2 2) ≠ 0 ∧ lo256 ((three 0 0 3).src2 2) = 0 :=
  ⟨by decide +kernel, three_prime, by decide +kernel, by decide +kernel, by decide +kernel, by decide +kernel⟩

/-- The generator passes, p - 1 with y = 0 fails the equation, x = p fails the range. -/
theorem witness_PmakeAcceptsExactlyThePointsOfTheCurve :
    let C := State.reset.curve
    C.b < C.p ∧ (onCurve15 3 0).curve.b < (onCurve15 3 0).curve.p ∧
    (C.gx < C.p ∧ C.gy < C.p ∧ C.gy ^ 2 % C.p = (C.gx ^ 3 + C.a * C.gx + C.b) % C.p) ∧
    ¬ (C.p < C.p) ∧ ¬ (0 ^ 2 % C.p = ((C.p - 1) ^ 3 + C.a * (C.p - 1) + C.b) % C.p) := by decide +kernel

/-- 2y = 0 modulo p with y = 0 and with y = p; a common factor; a slope, at coordinates below p and not, where the
last subtraction overflows and where it does not. -/
theorem witness_PointDoublingFollowsTheFormula :
    let p := State.reset.curve.p
    State.reset.curve.a < p ∧ curve15.a < curve15.p ∧
    2 * hi256 ((two (pt 5 0) 0).src1 1) % p = 0 ∧ 2 * hi256 ((two (pt 5 p) 0).src1 1) % p = 0 ∧
    (let y := hi256 ((onCurve15 (pt 1 3) 0).src1 1)
     2 * y % curve15.p ≠ 0 ∧ Nat.gcd (2 * y) curve15.p ≠ 1) ∧
    (let o := (two G 0).src1 1
     lo256 o < p ∧ hi256 o < p ∧ 2 * hi256 o % p ≠ 0 ∧ Nat.gcd (2 * hi256 o) p = 1) ∧
    (let o := (onCurve15 (pt 16 17) 0).src1 1
     curve15.p ≤ lo256 o ∧ curve15.p ≤ hi256 o ∧ 2 * hi256 o % curve15.p ≠ 0 ∧ Nat.gcd (2 * hi256 o) curve15.p = 1) ∧
    failed (.pdbl 3 1) (onCurve15 (pt 16 (2 ^ 256 - 1)) 0) 5 = false ∧
    failed (.pdbl 3 1) (onCurve15 (pt 16 (2 ^ 256 - 2)) 0) 5 = true := by decide +kernel

/-- Equal x; an overflow in y and in x; x1 = x2 + p; dx sharing a factor with p, dx = p among them; a slope, at
coordinates below p and not. -/
theorem witness_PointAdditionFollowsTheFormula :
    let p := State.reset.curve.p
    p ≠ 0 ∧ curve15.p ≠ 0 ∧
    (let s := two G G
     lo256 (s.src1 1) = lo256 (s.src2 2)) ∧
    borrow 0 16 15 = none ∧ borrow 1 17 15 = none ∧
    (let s := onCurve15 (pt 16 0) (pt 1 0)
     lo256 (s.src1 1) ≠ lo256 (s.src2 2) ∧ borrow 0 0 curve15.p = some 0 ∧
      borrow (lo256 (s.src2 2)) (lo256 (s.src1 1)) curve15.p = some 0) ∧
    (let s := onCurve15 (pt 1 0) (pt 16 0)
     borrow (lo256 (s.src2 2)) (lo256 (s.src1 1)) curve15.p = some 15 ∧ (15 ≠ 0 ∧ Nat.gcd 15 curve15.p ≠ 1)) ∧
    (let s := onCurve15 (pt 6 0) (pt 1 0)
     borrow (lo256 (s.src2 2)) (lo256 (s.src1 1)) curve15.p = some 10 ∧ Nat.gcd 10 curve15.p ≠ 1) ∧
    (let s := onCurve15 (pt 1 17) (pt 17 16)
     borrow (hi256 (s.src2 2)) (hi256 (s.src1 1)) curve15.p = some 14 ∧
      borrow (lo256 (s.src2 2)) (lo256 (s.src1 1)) curve15.p = some 16 ∧ (16 ≠ 0 ∧ Nat.gcd 16 curve15.p = 1)) ∧
    (let s := two G G2
     lo256 (s.src1 1) ≠ lo256 (s.src2 2) ∧ lo256 (s.src1 1) < p ∧ hi256 (s.src1 1) < p ∧ lo256 (s.src2 2) < p ∧
      hi256 (s.src2 2) < p ∧ Nat.gcd ((lo256 (s.src2 2) + p - lo256 (s.src1 1)) % p) p = 1) := by decide +kernel

theorem witness_ScalarMultiplicationIsTheScan :
    lo256 ((two 0 G).src1 1) = 0 ∧ lo256 ((two 1 G).src1 1) = 1 ∧
    (psmulScan State.reset.curve 3 ⟨Config.curve.gx, Config.curve.gy⟩).toOption.isSome = true ∧
    (psmulScan State.reset.curve 2 ⟨5, 0⟩).toOption.isSome = false := by decide +kernel

theorem curve7_valid : curve7.Valid where
  prime := by show Nat.Prime 7; norm_num
  large := by decide +kernel
  a_lt := by decide +kernel
  b_lt := by decide +kernel
  gen_lt := by decide +kernel
  gen_on := by decide +kernel

theorem witness_CurveFailureMap :
    curve7.a < curve7.p ∧ curve7.Valid ∧ (6 < curve7.p ∧ 1 < curve7.p ∧ 2 < curve7.p) ∧
    curve15.a < curve15.p ∧ (2 * 3 % curve15.p ≠ 0 ∧ Nat.gcd (2 * 3) curve15.p ≠ 1) ∧
    (1 ≠ 6 ∧ Nat.gcd ((6 + curve15.p - 1) % curve15.p) curve15.p ≠ 1) ∧
    (6 ≠ 1 ∧ Nat.gcd ((1 + curve15.p - 6) % curve15.p) curve15.p ≠ 1) :=
  ⟨by decide +kernel, curve7_valid, by decide +kernel, by decide +kernel, by decide +kernel, by decide +kernel,
    by decide +kernel⟩

end Sys2Proof.Tests
end

section
/-! PROOF. The frame of every command (O31): what an answered next state of `exec` may change, read off the three
ends of a command. -/

namespace Sys2Proof.Machine

/-! ### What the flag updates leave alone (10_state.md R26) -/

@[simp] theorem Flags.setOrder_odd (f : Flags) (o : Ordering) : (f.setOrder o).odd = f.odd := rfl
@[simp] theorem Flags.setEquality_odd (f : Flags) (e : Bool) : (f.setEquality e).odd = f.odd := rfl
@[simp] theorem Flags.setOdd_lt (f : Flags) (b : Bool) : (f.setOdd b).lt = f.lt := rfl
@[simp] theorem Flags.setOdd_eq (f : Flags) (b : Bool) : (f.setOdd b).eq = f.eq := rfl
@[simp] theorem Flags.setOdd_gt (f : Flags) (b : Bool) : (f.setOdd b).gt = f.gt := rfl

/-- The one way a comparison or parity command ends, by what it puts into FLAGS. -/
theorem exec_of_writesFlags {i : Instr} (hw : writesFlags i = true) (s : State) :
    (∃ o, exec i s = s.commitFlags (s.flags.setOrder o)) ∨
    (∃ e, exec i s = s.commitFlags (s.flags.setEquality e)) ∨
    (∃ r b, i = .uodd r ∧ exec i s = s.commitFlags (s.flags.setOdd b)) := by
  cases i with
  | ucmp256 | ucmp512 | scmp => exact .inl ⟨_, rfl⟩
  | peq => exact .inr (.inl ⟨_, rfl⟩)
  | uodd => exact .inr (.inr ⟨_, _, rfl, rfl⟩)
  | _ => cases hw

/-! ### What an answered next state is -/

theorem wroteFlags_of_commitFlags {s t : State} {f : Flags} (h : s.commitFlags f = .next t) : WroteFlags s t f := by
  cases h
  exact wroteFlags_complete s f

/-- `exec_cases` in the terms of Safety.lean: a next state is the old one after a register write, after a write of
FLAGS, or after an error completion. -/
theorem exec_next_cases {i : Instr} {s t : State} (h : exec i s = .next t) :
    (∃ rd v nn, destOf i = some rd ∧ writesFlags i = false ∧ WroteReg s t rd v nn) ∨
    (∃ f, destOf i = none ∧ writesFlags i = true ∧ WroteFlags s t f) ∨
    (∃ code, writesFlags i = false ∧ Raised s t code) := by
  rcases exec_cases i s with ⟨rd, r, hd, hw, he⟩ | ⟨f, hd, hw, he⟩ | ⟨e, -, hw, he⟩ <;> rw [he] at h
  · cases r with
    | ok o => cases h; exact .inl ⟨rd, _, _, hd, hw, wroteReg_complete s rd o⟩
    | error e => cases h; exact .inr (.inr ⟨_, hw, raised_raise s e⟩)
  · exact .inr (.inl ⟨f, hd, hw, wroteFlags_of_commitFlags h⟩)
  · cases h
    exact .inr (.inr ⟨_, hw, raised_raise s e⟩)

/-! ### The frame, part by part -/

section
variable {i : Instr} {s t : State}

theorem settled_of_exec (h : exec i s = .next t) : Settled s t := by
  rcases exec_next_cases h with ⟨_, _, _, -, -, w⟩ | ⟨_, -, -, w⟩ | ⟨_, -, w⟩ <;> exact w.toSettled

/-- A register that is not the destination keeps its value and its tag. -/
theorem reg_tag_of_exec (h : exec i s = .next t) {r : Reg} (hr : destOf i ≠ some r) :
    t.reg r = s.reg r ∧ t.tag r = s.tag r := by
  rcases exec_next_cases h with ⟨rd, _, _, hd, -, w⟩ | ⟨_, -, -, w⟩ | ⟨_, -, w⟩
  · exact w.others r fun e => hr (e ▸ hd)
  · exact w.regs r
  · exact w.regs r

theorem flags_of_exec (h : exec i s = .next t) (hw : writesFlags i = false) : t.flags = s.flags := by
  rcases exec_next_cases h with ⟨_, _, _, -, -, w⟩ | ⟨_, -, hw', -⟩ | ⟨_, -, w⟩
  · exact w.flags
  · simp [hw] at hw'
  · exact w.flags

theorem odd_of_exec (h : exec i s = .next t) (hi : ∀ r, i ≠ .uodd r) : t.flags.odd = s.flags.odd := by
  cases hw : writesFlags i with
  | false => rw [flags_of_exec h hw]
  | true =>
    rcases exec_of_writesFlags hw s with ⟨o, he⟩ | ⟨e, he⟩ | ⟨r, _, hr, -⟩
    · simp [(wroteFlags_of_commitFlags (he ▸ h)).flags]
    · simp [(wroteFlags_of_commitFlags (he ▸ h)).flags]
    · exact absurd hr (hi r)

theorem order_of_exec_uodd {r : Reg} (h : exec (.uodd r) s = .next t) :
    t.flags.lt = s.flags.lt ∧ t.flags.eq = s.flags.eq ∧ t.flags.gt = s.flags.gt := by
  have hf : t.flags = s.flags.setOdd ((s.src1 r).val.getLsbD 0) := (wroteFlags_of_commitFlags h).flags
  simp [hf]

end

end Sys2Proof.Machine

namespace Sys2Proof

open Sys2Proof.Machine

/-- Settles O31: each part of the frame by its lemma over the three ends of a command. -/
theorem commandsChangeOnlyWhatTheyName : Obligations.CommandsChangeOnlyWhatTheyName := by
  intro i s t h
  have hs := settled_of_exec h
  exact ⟨fun _ => reg_tag_of_exec h, flags_of_exec h, odd_of_exec h,
    fun _ hi => order_of_exec_uodd (hi ▸ h), hs.curve, hs.imm, hs.ien, hs.cmdr, hs.rej, hs.rst, hs.inputs,
    hs.readData⟩

end Sys2Proof
end

section
/-! PROOF. The invariant (10_state.md R34 and Safety.lean): it holds at reset (O2), one rule per operation keeps it, so
every step does (O3), and the relations of STATUS and FLAGS follow (O4). -/

namespace Sys2Proof.Machine

/-! ### The invariant's parts about STATUS and FLAGS -/

/-- The clauses of `State.Inv` that speak of STATUS alone (R28, R34, 60_exceptions.md R200). -/
structure Status.Sound (st : Status) : Prop where
  busy_clear : st.busy = true → st.err = false ∧ st.done = false
  no_err_code : st.err = false → st.errcode = 0#8
  err_code : st.err = true → 1 ≤ st.errcode.toNat ∧ st.errcode.toNat ≤ 7

/-- The clause of `State.Inv` that speaks of FLAGS (R26). -/
def Flags.AtMostOneOrder (f : Flags) : Prop :=
  (f.lt && f.eq) = false ∧ (f.lt && f.gt) = false ∧ (f.eq && f.gt) = false

theorem Flags.atMostOneOrder_setOrder (f : Flags) (o : Ordering) : (f.setOrder o).AtMostOneOrder := by
  cases o <;> exact ⟨rfl, rfl, rfl⟩

theorem Flags.atMostOneOrder_setEquality (f : Flags) (e : Bool) : (f.setEquality e).AtMostOneOrder := by
  cases e <;> exact ⟨rfl, rfl, rfl⟩

theorem ErrorKind.code_range (e : ErrorKind) : 1 ≤ e.code.toNat ∧ e.code.toNat ≤ 7 := by
  cases e <;> decide

section
variable {s t : State}

theorem State.Inv.sound (h : s.Inv) : s.status.Sound := ⟨h.busy_clear, h.no_err_code, h.err_code⟩

/-- `in_reset` asks nothing of a state in which rst is deasserted. -/
theorem State.Inv.of_running (hr : t.rst = false) (hs : t.status.Sound) (hf : t.flags.AtMostOneOrder)
    (hb : t.status.busy = t.inflight.isSome)
    (hc : ∀ f, t.inflight = some f → f = t.snapshot f.word ∧ t.cmdr = f.word) : t.Inv where
  busy_iff := hb
  busy_clear := hs.busy_clear
  no_err_code := hs.no_err_code
  err_code := hs.err_code
  snapshot := hc
  flags_one := hf
  in_reset := fun h => absurd (hr.symm.trans h) Bool.false_ne_true

/-- An event that keeps the command in flight keeps the invariant, if it leaves STATUS sound and, while BUSY, the
registers, tags and IMM alone (20_memory.md R61). -/
theorem State.Inv.of_same_command (h : s.Inv) (hr : t.rst = false) (hs : t.status.Sound)
    (hb : t.status.busy = s.status.busy) (hf : t.flags = s.flags) (hi : t.inflight = s.inflight)
    (hc : t.cmdr = s.cmdr) (hsrc : s.status.busy = true → t.regs = s.regs ∧ t.nn = s.nn ∧ t.imm = s.imm) :
    t.Inv := by
  refine .of_running hr hs (hf ▸ h.flags_one) (by rw [hb, hi, h.busy_iff]) fun f hf' => ?_
  rw [hi] at hf'
  obtain ⟨hregs, hnn, himm⟩ := hsrc (by simp [h.busy_iff, hf'])
  rw [State.snapshot_congr hregs hnn himm, hc]
  exact h.snapshot f hf'

/-- After a completion nothing is in flight, so only STATUS and FLAGS are left to check. -/
theorem Settled.inv (w : Settled s t) (hr : s.rst = false) (hs : t.status.Sound) (hf : t.flags.AtMostOneOrder) :
    t.Inv :=
  .of_running (w.rst.trans hr) hs hf (by simp [w.busy, w.inflight]) fun f h => by simp [w.inflight] at h

/-! ### Reset, the reset input and the ports -/

/-- Every state element at its reset value, at either level of rst (70_reset R231). -/
theorem State.inv_of_reset_values (C : Curve) (level : Bool) (l : List Input) (d : List Byte) :
    ({ State.reset with curve := C, rst := level, inputs := l, readData := d } : State).Inv where
  busy_iff := rfl
  busy_clear := nofun
  no_err_code := fun _ => rfl
  err_code := nofun
  snapshot := fun _ h => nomatch h
  flags_one := ⟨rfl, rfl, rfl⟩
  in_reset := by rintro rfl; rfl

theorem State.Inv.setRst (h : s.Inv) (level : Bool) : (s.setRst level).Inv := by
  unfold State.setRst
  split
  · exact State.inv_of_reset_values _ _ _ _
  · exact h

/-- The two fields of the model's own, the waiting inputs and the read port, are free. -/
theorem State.Inv.with_ports (h : s.Inv) (l : List Input) (d : List Byte) :
    ({ s with inputs := l, readData := d } : State).Inv :=
  { h with
    in_reset := fun hr => congrArg (fun u : State => { u with inputs := l, readData := d }) (h.in_reset hr) }

/-! ### Host writes, by what they do (20_memory.md R56, R61) -/

theorem State.Inv.reject (h : s.Inv) (hr : s.rst = false) : s.reject.Inv :=
  h.of_same_command hr ⟨h.busy_clear, h.no_err_code, h.err_code⟩ rfl rfl rfl rfl fun _ => ⟨rfl, rfl, rfl⟩

/-- R28: the write that clears ERR clears ERRCODE with it. -/
theorem Status.Sound.w1cStatus (h : s.status.Sound) (w : BitVec 64) : (s.w1cStatus w).status.Sound where
  busy_clear := fun hb => by simp [h.busy_clear hb]
  no_err_code := by
    rw [State.w1cStatus_status_err, State.w1cStatus_status_errcode]
    cases w.getLsbD 2 with
    | true => simp
    | false => simpa using h.no_err_code
  err_code := by
    rw [State.w1cStatus_status_err, State.w1cStatus_status_errcode]
    cases w.getLsbD 2 with
    | true => simp
    | false => simpa using h.err_code

theorem State.Inv.w1cStatus (h : s.Inv) (hr : s.rst = false) (w : BitVec 64) : (s.w1cStatus w).Inv :=
  h.of_same_command hr (h.sound.w1cStatus w) rfl rfl rfl rfl fun _ => ⟨rfl, rfl, rfl⟩

/-- R90 accepts with ERR = 0 only; the snapshot is of registers that acceptance does not write. -/
theorem State.Inv.accept (h : s.Inv) (hr : s.rst = false) (he : s.status.err = false) (c : CmdWord) :
    (s.accept c).Inv := by
  refine .of_running hr ⟨fun _ => ⟨he, rfl⟩, h.no_err_code, h.err_code⟩ h.flags_one rfl fun f hf => ?_
  cases hf
  rw [State.snapshot_word, State.snapshot_congr (s.accept_regs c) (s.accept_nn c) (s.accept_imm c)]
  exact ⟨rfl, rfl⟩

theorem State.Inv.offer (h : s.Inv) (hr : s.rst = false) (c : CmdWord) : (s.offer c).Inv := by
  unfold State.offer
  split
  · exact h.reject hr
  · next hn =>
    have ⟨_, he⟩ : s.status.busy = false ∧ s.status.err = false := by simpa using hn
    exact h.accept hr he c

theorem State.Inv.unlessBusy (h : s.Inv) (hr : s.rst = false) (ht : s.status.busy = false → t.Inv) :
    (s.unlessBusy t).Inv := by
  unfold State.unlessBusy
  split
  · exact h.reject hr
  · next hb => exact ht (by simpa using hb)

/-- In an idle MAU the registers, tags and IMM are free. -/
theorem State.Inv.with_sources (h : s.Inv) (hr : s.rst = false) (regs : Vector RegVal 16) (nn : BitVec 16)
    (imm : BitVec 64) (hb : s.status.busy = false) : ({ s with regs := regs, nn := nn, imm := imm } : State).Inv :=
  h.of_same_command hr h.sound rfl rfl rfl rfl fun hb' => absurd (hb.symm.trans hb') Bool.false_ne_true

theorem State.Inv.writeWord (h : s.Inv) (hr : s.rst = false) (lo n v : Nat) (reg : Region) :
    (s.writeWord lo n v reg).Inv := by
  cases reg with
  | id | flags | reserved => exact h
  | ctrl => exact h.of_same_command hr h.sound rfl rfl rfl rfl fun _ => ⟨rfl, rfl, rfl⟩
  | status => exact h.w1cStatus hr _
  | cmd =>
    simp only [State.writeWord]
    split
    · exact h.offer hr _
    · exact h
  | imm | signs | rf => exact h.unlessBusy hr (h.with_sources hr _ _ _)

theorem State.Inv.hostWrite (h : s.Inv) (off n v : Nat) : (s.hostWrite off n v).Inv := by
  unfold State.hostWrite
  split
  · exact h
  · next hn =>
    have ⟨hr, _⟩ : s.rst = false ∧ accessWellFormed off n = true := by simpa using hn
    exact h.writeWord hr _ _ _ _

/-! ### Completions (30_encoding.md R92, 60_exceptions.md R202) -/

/-- `exec_cases` by what it does to STATUS: a success keeps ERR and ERRCODE, an error completion sets both. -/
theorem succeeded_or_raise_of_exec {i : Instr} (h : exec i s = .next t) : Succeeded s t ∨ ∃ e, t = s.raise e := by
  rcases exec_cases i s with ⟨rd, r, -, -, he⟩ | ⟨f, -, -, he⟩ | ⟨e, -, -, he⟩ <;> rw [he] at h
  · cases r with
    | ok o => cases h; exact .inl (wroteReg_complete s rd o).toSucceeded
    | error e => cases h; exact .inr ⟨e, rfl⟩
  · exact .inl (wroteFlags_of_commitFlags h).toSucceeded
  · cases h; exact .inr ⟨e, rfl⟩

theorem Succeeded.sound (w : Succeeded s t) (h : s.status.Sound) : t.status.Sound where
  busy_clear := by simp [w.busy]
  no_err_code := by simpa only [w.err, w.errcode] using h.no_err_code
  err_code := by simpa only [w.err, w.errcode] using h.err_code

theorem Status.sound_raise (s : State) (e : ErrorKind) : (s.raise e).status.Sound where
  busy_clear := nofun
  no_err_code := nofun
  err_code := fun _ => e.code_range

theorem State.Inv.raise (h : s.Inv) (hr : s.rst = false) (e : ErrorKind) : (s.raise e).Inv :=
  (raised_raise s e).toSettled.inv hr (Status.sound_raise s e) h.flags_one

/-- The comparison commands write LT, EQ, GT afresh; every other command keeps them. -/
theorem atMostOneOrder_of_exec {i : Instr} (h : exec i s = .next t) (hf : s.flags.AtMostOneOrder) :
    t.flags.AtMostOneOrder := by
  cases hw : writesFlags i with
  | false => rwa [flags_of_exec h hw]
  | true =>
    rcases exec_of_writesFlags hw s with ⟨o, he⟩ | ⟨e, he⟩ | ⟨_, b, -, he⟩ <;>
      rw [(wroteFlags_of_commitFlags (he ▸ h)).flags]
    · exact s.flags.atMostOneOrder_setOrder o
    · exact s.flags.atMostOneOrder_setEquality e
    · exact hf

theorem State.Inv.exec {i : Instr} (hi : s.Inv) (hr : s.rst = false) (h : exec i s = .next t) : t.Inv := by
  rcases succeeded_or_raise_of_exec h with w | ⟨e, rfl⟩
  · exact w.toSettled.inv hr (w.sound hi.sound) (atMostOneOrder_of_exec h hi.flags_one)
  · exact hi.raise hr e

/-! ### What a step can do -/

/-- The MAU's own step, when it answers: it waits, or, with rst deasserted, completes a word. -/
theorem mauTurn_next_cases (h : mauTurn s = .next t) :
    t = s ∨ (s.rst = false ∧ (t = s.raise .illegalCommand ∨ ∃ i, exec i s = .next t)) := by
  rcases mauTurn_cases s with ⟨-, he⟩ | ⟨_, _, hr, -, -, he⟩ | ⟨_, i, hr, -, -, he⟩ <;> rw [he] at h
  · cases h; exact .inl rfl
  · cases h; exact .inr ⟨hr, .inl rfl⟩
  · exact .inr ⟨hr, .inr ⟨i, h⟩⟩

theorem next_of_atOffset {a : HostAddr} {k : Nat → State} (h : atOffset a k = .next t) : ∃ off, t = k off := by
  rcases atOffset_cases a k with ⟨off, -, he⟩ | ⟨-, he⟩ <;> rw [he] at h
  · cases h; exact ⟨off, rfl⟩
  · cases h

theorem serve_next_cases {i : Input} (h : serve i s = .next t) :
    (∃ off n, t = s.hostRead off n) ∨ (∃ off n v, t = s.hostWrite off n v) ∨ (∃ level, t = s.setRst level) ∨
      mauTurn s = .next t := by
  cases i with
  | read a n => obtain ⟨off, e⟩ := next_of_atOffset h; exact .inl ⟨off, n, e⟩
  | write a n v => obtain ⟨off, e⟩ := next_of_atOffset h; exact .inr (.inl ⟨off, n, v, e⟩)
  | rst level => cases h; exact .inr (.inr (.inl ⟨level, rfl⟩))
  | mau => exact .inr (.inr (.inr h))

/-- A step is the MAU's own turn, or one input served after it has left the list. -/
theorem step_next_cases (h : step s = .next t) :
    mauTurn s = .next t ∨ ∃ i rest, serve i { s with inputs := rest } = .next t := by
  cases hi : s.inputs with
  | nil => exact .inl (step_nil s hi ▸ h)
  | cons i rest => exact .inr ⟨i, rest, step_cons s i rest hi ▸ h⟩

/-! ### CURVE (10_state.md R33, 20_memory.md R65) -/

theorem curve_of_mauTurn (h : mauTurn s = .next t) : t.curve = s.curve := by
  rcases mauTurn_next_cases h with rfl | ⟨-, rfl | ⟨i, he⟩⟩
  · rfl
  · rfl
  · exact (settled_of_exec he).curve

theorem curve_of_serve {i : Input} (h : serve i s = .next t) : t.curve = s.curve := by
  rcases serve_next_cases h with ⟨off, n, rfl⟩ | ⟨off, n, v, rfl⟩ | ⟨level, rfl⟩ | hm
  · rfl
  · exact hostWrite_curve s off n v
  · exact s.setRst_curve level
  · exact curve_of_mauTurn hm

theorem curve_of_step (h : step s = .next t) : t.curve = s.curve := by
  rcases step_next_cases h with hm | ⟨i, rest, hs⟩
  · exact curve_of_mauTurn hm
  · exact (curve_of_serve hs :)

/-! ### Every step keeps the invariant -/

theorem State.Inv.mauTurn (hi : s.Inv) (h : mauTurn s = .next t) : t.Inv := by
  rcases mauTurn_next_cases h with rfl | ⟨hr, rfl | ⟨i, he⟩⟩
  · exact hi
  · exact hi.raise hr _
  · exact hi.exec hr he

theorem State.Inv.serve {i : Input} (hi : s.Inv) (h : serve i s = .next t) : t.Inv := by
  rcases serve_next_cases h with ⟨off, n, rfl⟩ | ⟨off, n, v, rfl⟩ | ⟨level, rfl⟩ | hm
  · exact hi.with_ports s.inputs _
  · exact hi.hostWrite off n v
  · exact hi.setRst level
  · exact hi.mauTurn hm

theorem State.Inv.step (hi : s.Inv) (h : step s = .next t) : t.Inv := by
  rcases step_next_cases h with hm | ⟨i, rest, hs⟩
  · exact hi.mauTurn hm
  · exact (hi.with_ports rest s.readData).serve hs

end

end Sys2Proof.Machine

namespace Sys2Proof

open Sys2Proof.Machine Sys2Proof.Claim

theorem exactlyOne_setOrder (f : Flags) (o : Ordering) : ExactlyOne (f.setOrder o) := by
  cases o <;> rfl

/-- Settles O3: CURVE and the invariant, by the case analysis of a step and one rule per operation. -/
theorem everyStepKeepsTheInvariant : Obligations.EveryStepKeepsTheInvariant :=
  fun _ _ h => ⟨curve_of_step h, fun hi => hi.step h⟩

/-- Settles O4: the relations of STATUS are clauses of the kept invariant; the comparisons commit `Flags.setOrder`. -/
theorem statusAndFlagRelationsAreKept : Obligations.StatusAndFlagRelationsAreKept := by
  refine ⟨fun s t hi h => ?_, ?_, ?_, ?_⟩
  · exact ⟨(hi.step h).busy_clear, (hi.step h).no_err_code⟩
  all_goals exact fun s a b => ⟨_, rfl, exactlyOne_setOrder s.flags _⟩

/-- Settles O2: the reset values of the default CURVE, with rst deasserted and no input waiting. -/
theorem resetSatisfiesTheInvariant : Obligations.ResetSatisfiesTheInvariant :=
  State.inv_of_reset_values Config.curve false [] []

end Sys2Proof
end

section
/-! PROOF. The rules of a host access, below the obligations about the window: well-formed and malformed accesses, the
place an offset goes to, bytes merged into a word, and the word each place reads as (20_memory.md R51 to R57). -/

namespace Sys2Proof.Machine

open Sys2Proof.Claim

/-! ### Well-formed and malformed accesses (R53, R54) -/

theorem accessWellFormed_iff {off n : Nat} : accessWellFormed off n = true ↔ WellFormedAccess off n := by
  simp [accessWellFormed, WellFormedAccess]

section
variable {s : State} {off n v : Nat}

theorem State.hostWrite_of_wellFormed (hr : s.rst = false) (hw : WellFormedAccess off n) :
    s.hostWrite off n v = s.writeWord (off % 8) n v (regionOf (off - off % 8)) := by
  simp [State.hostWrite, hr, accessWellFormed_iff.mpr hw]

theorem State.hostWrite_of_malformed (hw : ¬ WellFormedAccess off n) : s.hostWrite off n v = s := by
  simp [State.hostWrite, mt accessWellFormed_iff.mp hw]

theorem State.hostWrite_of_rst (hr : s.rst = true) : s.hostWrite off n v = s := by
  simp [State.hostWrite, hr]

/-- Byte k of a well-formed read is byte `off % 8 + k` of the word read (R55, R57). -/
theorem State.readBytes_of_wellFormed (hr : s.rst = false) (hw : WellFormedAccess off n) :
    s.readBytes off n = (List.range n).map fun k =>
      (s.windowWord (regionOf (off - off % 8))).extractLsb' (8 * (off % 8 + k)) 8 := by
  simp [State.readBytes, hr, accessWellFormed_iff.mpr hw]

theorem State.readBytes_of_malformed (hw : ¬ WellFormedAccess off n) :
    s.readBytes off n = List.replicate n 0#8 := by
  simp [State.readBytes, mt accessWellFormed_iff.mp hw]

end

/-! ### The place of an offset (R51) -/

section
variable {off8 : Nat}

theorem regionOf_of_rf (h : 0x400 ≤ off8) : ∃ r l, regionOf off8 = .rf r l :=
  ⟨_, _, if_pos h⟩

theorem regionOf_of_reserved (h : 0x038 ≤ off8) (h' : off8 < 0x400) : regionOf off8 = .reserved := by
  have below : ∀ k, k < 0x038 → off8 ≠ k := fun k hk e => by omega
  simp [regionOf, Nat.not_le.mpr h', below]

theorem eq_of_regionOf_status (h : regionOf off8 = .status) : off8 = 0x010 := by
  unfold regionOf at h
  split_ifs at h
  assumption

theorem eq_of_regionOf_cmd (h : regionOf off8 = .cmd) : off8 = 0x018 := by
  unfold regionOf at h
  split_ifs at h
  assumption

end

/-! ### Writes in an idle and in a busy MAU (R61) -/

@[simp] theorem State.unlessBusy_of_idle {s : State} (h : s.status.busy = false) (t : State) :
    s.unlessBusy t = t := by
  simp [State.unlessBusy, h]

@[simp] theorem State.unlessBusy_of_busy {s : State} (h : s.status.busy = true) (t : State) :
    s.unlessBusy t = s.reject := by
  simp [State.unlessBusy, h]

@[simp] theorem State.writeWord_rst (s : State) (lo n v : Nat) (p : Region) : (s.writeWord lo n v p).rst = s.rst :=
  (writeWord_frame s lo n v p).1

/-! ### Bytes merged into a word (R56) -/

/-- A write of all eight bytes replaces the word. -/
theorem mergeBytes_eight (old : BitVec 64) (v : Nat) : mergeBytes old 0 8 v = BitVec.ofNat 64 v := by
  apply BitVec.eq_of_getLsbD_eq
  intro i hi
  rw [getLsbD_mergeBytes _ _ _ _ _ hi, if_pos (by omega), BitVec.getLsbD_ofNat]
  simp [hi]

theorem mergeBytes_again (old : BitVec 64) (lo n v : Nat) :
    mergeBytes (mergeBytes old lo n v) lo n v = mergeBytes old lo n v := by
  apply BitVec.eq_of_getLsbD_eq
  intro i hi
  simp only [getLsbD_mergeBytes _ _ _ _ _ hi]
  split <;> rfl

/-- Two 4-byte writes to the halves of a word are the 8-byte write of their bytes (R58). -/
theorem mergeBytes_halves (old : BitVec 64) {lo : Nat} (hi : Nat) (h : lo < 2 ^ 32) :
    mergeBytes (mergeBytes old 0 4 lo) 4 4 hi = mergeBytes old 0 8 (lo + 2 ^ 32 * hi) := by
  apply BitVec.eq_of_getLsbD_eq
  intro i hi64
  simp only [getLsbD_mergeBytes _ _ _ _ _ hi64, Nat.add_comm lo, Nat.testBit_two_pow_mul_add _ h]
  by_cases h32 : i < 32
  · simp [h32, hi64, show ¬ 32 ≤ i by omega]
  · simp [h32, hi64, show 32 ≤ i by omega]

/-! ### A limb replaced twice -/

theorem setLimb_setLimb (v : RegVal) (l : Fin 8) (w w' : Limb) : setLimb (setLimb v l w) l w' = setLimb v l w' := by
  apply BitVec.eq_of_getLsbD_eq
  intro i hi
  simp only [getLsbD_setLimb _ _ _ _ hi]
  split <;> rfl

/-- Two writes to one limb are one, where the merges of their bytes are. -/
theorem State.writeWord_rf_writeWord_rf (s : State) (r : Reg) (l : Fin 8) {lo n v lo' n' v' lo'' n'' v'' : Nat}
    (h : ∀ w, mergeBytes (mergeBytes w lo n v) lo' n' v' = mergeBytes w lo'' n'' v'') :
    (s.writeWord lo n v (.rf r l)).writeWord lo' n' v' (.rf r l) = s.writeWord lo'' n'' v'' (.rf r l) := by
  cases hb : s.status.busy with
  | true => simp [State.writeWord, hb, State.reject]
  | false => simp [State.writeWord, hb, State.reg, limbOf_setLimb_same, setLimb_setLimb, h]

/-! ### The words as naturals (R51, R52) -/

theorem toNat_ctrlWord (ien : Bool) : (ctrlWord ien).toNat = ien.toNat := by
  cases ien <;> rfl

theorem toNat_flagsWord (f : Flags) :
    f.word.toNat = f.lt.toNat + 2 * f.eq.toNat + 4 * f.gt.toNat + 8 * f.odd.toNat := by
  obtain ⟨lt, eq, gt, odd⟩ := f
  revert lt eq gt odd
  decide

/-- The four one-bit fields of STATUS lie below ERRCODE. -/
theorem toNat_statusWord (t : Status) : t.word.toNat =
    t.busy.toNat + 2 * t.done.toNat + 4 * t.err.toNat + 8 * t.rej.toNat + 256 * t.errcode.toNat := by
  have low : (bitAt 0 t.busy ||| bitAt 1 t.done ||| bitAt 2 t.err ||| bitAt 3 t.rej).toNat =
      t.busy.toNat + 2 * t.done.toNat + 4 * t.err.toNat + 8 * t.rej.toNat :=
    toNat_flagsWord ⟨t.busy, t.done, t.err, t.rej⟩
  have lt := t.errcode.isLt
  have code : (BitVec.setWidth 64 t.errcode <<< 8).toNat = t.errcode.toNat <<< 8 := by
    simp only [BitVec.toNat_shiftLeft, BitVec.toNat_setWidth, Nat.shiftLeft_eq]
    omega
  have small : t.busy.toNat + 2 * t.done.toNat + 4 * t.err.toNat + 8 * t.rej.toNat < 2 ^ 8 := by
    have := t.busy.toNat_le; have := t.done.toNat_le; have := t.err.toNat_le; have := t.rej.toNat_le
    omega
  rw [Status.word, BitVec.toNat_or, low, code, Nat.lor_comm, ← Nat.shiftLeft_add_eq_or_of_lt small, Nat.shiftLeft_eq]
  omega

theorem toNat_limbOf (v : RegVal) (l : Fin 8) : (limbOf v l).toNat = v.toNat / 2 ^ (64 * l.val) % 2 ^ 64 := by
  simp [limbOf, BitVec.extractLsb'_toNat, Nat.shiftRight_eq_div_pow]

/-- The word of a place is the map's word at its offset. -/
theorem toNat_windowWord_regionOf (s : State) (off8 : Nat) :
    (s.windowWord (regionOf off8)).toNat = mapWord s off8 := by
  by_cases h : 0x400 ≤ off8
  · have hl : off8 % 0x40 / 8 % 8 = off8 % 0x40 / 8 := Nat.mod_eq_of_lt (by omega)
    have above : ∀ k, k < 0x400 → off8 ≠ k := fun k hk e => by omega
    simp [regionOf, mapWord, h, State.windowWord, toNat_limbOf, hl, above]
  · simp only [regionOf, mapWord, h, if_false]
    split_ifs
    · rfl
    · exact toNat_ctrlWord s.ien
    · exact toNat_statusWord s.status
    · exact BitVec.toNat_setWidth_of_le (by decide)
    · exact toNat_flagsWord s.flags
    · rfl
    · exact BitVec.toNat_setWidth_of_le (by decide)
    · rfl

end Sys2Proof.Machine
end

section
/-! PROOF. Single host accesses: the stop outside the window (O26), malformed accesses (O16), reads (O15), and writes to
the register file (O17, O18), to the control words (O19) and where they are rejected (O20); what a second access of the
same bytes does (O23). -/

namespace Sys2Proof.Machine

open Sys2Proof.Claim

/-! ### Addresses and steps (20_memory.md R50, R51) -/

theorem offset?_of_off_outside {o : Nat} (h : 0x800 ≤ o) : (HostAddr.off o).offset? = none :=
  if_neg (Nat.not_lt.mpr h)

theorem offset?_of_bus_outside {a : Nat} (h : a < Config.mauBase ∨ Config.mauBase + 0x800 ≤ a) :
    (HostAddr.bus a).offset? = none :=
  if_neg fun ⟨hl, hu⟩ => by unfold Config.windowSize at hu; omega

theorem offset?_of_bus_inside {o : Nat} (h : o < 0x800) :
    (HostAddr.bus (Config.mauBase + o)).offset? = (HostAddr.off o).offset? := by
  simp [HostAddr.offset?, Config.windowSize, h]

theorem atOffset_congr {a b : HostAddr} (h : a.offset? = b.offset?) (k : Nat → State) :
    atOffset a k = atOffset b k := by
  simp [atOffset, h]

section
variable {s : State} {rest : List Input} {n v : Nat}

theorem step_of_access_outside {a : HostAddr} (ha : a.offset? = none)
    (h : s.inputs = .read a n :: rest ∨ s.inputs = .write a n v :: rest) : step s = .fault .outsideWindow := by
  rcases h with h | h <;> simp [step_cons s _ rest h, serve, atOffset, ha]

theorem step_read {off : Nat} (hoff : off < 0x800) (h : s.inputs = .read (.off off) n :: rest) :
    step s = .next { s with inputs := rest, readData := s.readBytes off n } := by
  rw [step_cons s _ rest h, serve, atOffset_off _ _ hoff]
  rfl

theorem step_write {off : Nat} (hoff : off < 0x800) (h : s.inputs = .write (.off off) n v :: rest) :
    step s = .next (State.hostWrite { s with inputs := rest } off n v) := by
  rw [step_cons s _ rest h, serve, atOffset_off _ _ hoff]

end

/-! ### Writes to the register file (R52, R57, R58) -/

/-- A well-formed access of the register file lies in one limb. -/
theorem exists_limb_of_rf {off n : Nat} (h : 0x400 ≤ off) (h' : off < 0x800) (hw : WellFormedAccess off n) :
    ∃ (r : Reg) (l : Fin 8) (lo : Nat), off = 0x400 + 0x40 * r.val + 8 * l.val + lo ∧ lo + n ≤ 8 ∧ lo < 8 :=
  ⟨⟨(off - 0x400) / 0x40, by omega⟩, ⟨off % 0x40 / 8, by omega⟩, off % 8,
    by dsimp only; omega, by unfold WellFormedAccess at hw; omega, by omega⟩

theorem State.hostWrite_limb {s : State} (hr : s.rst = false) (r : Reg) (l : Fin 8) {lo n : Nat} (v : Nat)
    (hlo : lo < 8) (hw : WellFormedAccess (0x400 + 0x40 * r.val + 8 * l.val + lo) n) :
    s.hostWrite (0x400 + 0x40 * r.val + 8 * l.val + lo) n v = s.writeWord lo n v (.rf r l) := by
  have byte : (0x400 + 0x40 * r.val + 8 * l.val + lo) % 8 = lo := by omega
  rw [State.hostWrite_of_wellFormed hr hw, byte, Nat.add_sub_cancel, regionOf_rf]

/-- Byte j of a number, bit by bit. -/
theorem testBit_byte (x j i : Nat) :
    (x / 2 ^ (8 * j) % 2 ^ 8).testBit i = (decide (i < 8) && x.testBit (8 * j + i)) := by
  rw [Nat.testBit_mod_two_pow, Nat.testBit_div_two_pow, Nat.add_comm]

theorem testBit_byteOf (v : RegVal) (j i : Nat) :
    (byteOf v j).testBit i = (decide (i < 8) && v.getLsbD (8 * j + i)) :=
  testBit_byte v.toNat j i

/-- Bit i of a register after n bytes of w are written at byte lo of its limb l. -/
theorem getLsbD_setLimb_mergeBytes (v : RegVal) (l : Fin 8) {lo n i : Nat} (w : Nat) (hn : lo + n ≤ 8)
    (hi : i < 512) : (setLimb v l (mergeBytes (limbOf v l) lo n w)).getLsbD i =
      if 8 * (8 * l.val + lo) ≤ i ∧ i < 8 * (8 * l.val + lo + n) then w.testBit (i - 8 * (8 * l.val + lo))
      else v.getLsbD i := by
  rw [getLsbD_setLimb _ _ _ _ hi]
  by_cases hl : 64 * l.val ≤ i ∧ i < 64 * l.val + 64
  · have hw : i - 64 * l.val < 64 := by omega
    have back : 64 * l.val + (i - 64 * l.val) = i := by omega
    rw [if_pos hl, getLsbD_mergeBytes _ _ _ _ _ hw, getLsbD_limbOf, back]
    by_cases hb : 8 * (8 * l.val + lo) ≤ i ∧ i < 8 * (8 * l.val + lo + n)
    · have index : i - 64 * l.val - 8 * lo = i - 8 * (8 * l.val + lo) := by omega
      rw [if_pos hb, if_pos (by omega), index]
    · rw [if_neg hb, if_neg (by omega)]
      simp [hw]
  · rw [if_neg hl, if_neg (by omega)]

/-- Byte j of a register after n bytes of w are written at byte lo of its limb l. -/
theorem byteOf_setLimb_mergeBytes (v : RegVal) (l : Fin 8) {lo n j : Nat} (w : Nat) (hn : lo + n ≤ 8) (hj : j < 64) :
    byteOf (setLimb v l (mergeBytes (limbOf v l) lo n w)) j =
      if 8 * l.val + lo ≤ j ∧ j < 8 * l.val + lo + n then w / 2 ^ (8 * (j - (8 * l.val + lo))) % 2 ^ 8
      else byteOf v j := by
  apply Nat.eq_of_testBit_eq
  intro i
  rw [apply_ite (Nat.testBit · i), testBit_byteOf, testBit_byteOf, testBit_byte]
  by_cases hi : i < 8
  · rw [getLsbD_setLimb_mergeBytes v l w hn (by omega)]
    by_cases hb : 8 * l.val + lo ≤ j ∧ j < 8 * l.val + lo + n
    · have index : 8 * (j - (8 * l.val + lo)) + i = 8 * j + i - 8 * (8 * l.val + lo) := by omega
      rw [if_pos hb, if_pos (by omega), index]
    · rw [if_neg hb, if_neg (by omega)]
  · simp [hi]

/-- The bytes of a register file with n bytes of w written at byte lo of limb l of register r, by their offsets. -/
theorem byteOf_set_limb (s : State) (r : Reg) (l : Fin 8) {lo n : Nat} (w : Nat) (hn : lo + n ≤ 8) (q : Reg) {j : Nat}
    (hj : j < 64) :
    byteOf (s.regs.set r.val (setLimb (s.reg r) l (mergeBytes (limbOf (s.reg r) l) lo n w)))[q.val] j =
      if 0x400 + 0x40 * r.val + 8 * l.val + lo ≤ 0x400 + 0x40 * q.val + j ∧
          0x400 + 0x40 * q.val + j < 0x400 + 0x40 * r.val + 8 * l.val + lo + n
      then w / 2 ^ (8 * (0x400 + 0x40 * q.val + j - (0x400 + 0x40 * r.val + 8 * l.val + lo))) % 2 ^ 8
      else byteOf (s.reg q) j := by
  have hl := l.isLt
  by_cases hq : r.val = q.val
  · obtain rfl : r = q := Fin.ext hq
    have index : 0x400 + 0x40 * r.val + j - (0x400 + 0x40 * r.val + 8 * l.val + lo) = j - (8 * l.val + lo) := by omega
    rw [Vector.getElem_set_self, byteOf_setLimb_mergeBytes _ _ _ hn hj, index]
    refine if_congr ?_ rfl rfl
    omega
  · rw [Vector.getElem_set_ne _ _ hq, if_neg (by omega), State.reg]

/-! ### Writes to the control words (R56) -/

theorem getLsbD_zero_ctrlWord (ien : Bool) : (ctrlWord ien).getLsbD 0 = ien := by
  cases ien <;> rfl

/-- IEN is bit 0 of CTRL, so a write reaches it at byte 0 alone. -/
theorem getLsbD_zero_mergeBytes_ctrl (ien : Bool) (lo n v : Nat) :
    (mergeBytes (ctrlWord ien) lo n v).getLsbD 0 = if lo = 0 ∧ 0 < n then v.testBit 0 else ien := by
  rw [getLsbD_mergeBytes _ _ _ _ 0 (by decide), getLsbD_zero_ctrlWord, Nat.zero_sub]
  exact if_congr (by omega) rfl rfl

theorem State.writeWord_ctrl_low (s : State) {n : Nat} (v : Nat) (hn : 0 < n) :
    s.writeWord 0 n v .ctrl = { s with ien := v.testBit 0 } := by
  rw [State.writeWord, getLsbD_zero_mergeBytes_ctrl, if_pos ⟨rfl, hn⟩]

theorem State.writeWord_ctrl_high (s : State) {lo : Nat} (n v : Nat) (hlo : lo ≠ 0) :
    s.writeWord lo n v .ctrl = s := by
  rw [State.writeWord, getLsbD_zero_mergeBytes_ctrl, if_neg fun h => hlo h.1]

theorem getLsbD_mergeBytes_low_half (old : BitVec 64) (v : Nat) {i : Nat} (hi : i < 64) :
    (mergeBytes old 0 4 v).getLsbD i = if i < 32 then v.testBit i else old.getLsbD i := by
  rw [getLsbD_mergeBytes _ _ _ _ _ hi]
  exact if_congr (by omega) rfl rfl

theorem getLsbD_mergeBytes_high_half (old : BitVec 64) (v : Nat) {i : Nat} (hi : i < 64) :
    (mergeBytes old 4 4 v).getLsbD i = if i < 32 then old.getLsbD i else v.testBit (i - 32) := by
  rw [getLsbD_mergeBytes _ _ _ _ _ hi, ← ite_not]
  exact if_congr (by omega) rfl rfl

/-- The sign tags after n bytes of v are written at byte lo of SIGNS. -/
theorem getLsbD_mergeBytes_signs (nn : BitVec 16) (lo n v : Nat) {i : Nat} (hi : i < 16) :
    (BitVec.setWidth 16 (mergeBytes (BitVec.setWidth 64 nn) lo n v)).getLsbD i =
      if 8 * lo ≤ i ∧ i < 8 * lo + 8 * n then v.testBit (i - 8 * lo) else nn.getLsbD i := by
  have hi64 : i < 64 := by omega
  rw [BitVec.getLsbD_setWidth, getLsbD_mergeBytes _ _ _ _ _ hi64, BitVec.getLsbD_setWidth]
  simp only [hi, hi64, decide_true, Bool.true_and]

/-- The upper half of SIGNS holds no tag. -/
theorem mergeBytes_signs_high (nn : BitVec 16) (n v : Nat) :
    BitVec.setWidth 16 (mergeBytes (BitVec.setWidth 64 nn) 4 n v) = nn := by
  apply BitVec.eq_of_getLsbD_eq
  intro i hi
  rw [getLsbD_mergeBytes_signs _ _ _ _ hi, if_neg (by omega)]

theorem mergeBytes_signs_again (nn : BitVec 16) (lo n v : Nat) :
    BitVec.setWidth 16 (mergeBytes (BitVec.setWidth 64 (BitVec.setWidth 16 (mergeBytes (BitVec.setWidth 64 nn) lo n v)))
      lo n v) = BitVec.setWidth 16 (mergeBytes (BitVec.setWidth 64 nn) lo n v) := by
  apply BitVec.eq_of_getLsbD_eq
  intro i hi
  simp only [getLsbD_mergeBytes_signs _ _ _ _ hi]
  split <;> rfl

/-! ### Rejected writes (R61, 60_exceptions.md R208) -/

/-- The places of SIGNS, IMM and the register file. -/
theorem regionOf_of_source {off8 : Nat} (h8 : off8 % 8 = 0) (h : (0x028 ≤ off8 ∧ off8 < 0x038) ∨ 0x400 ≤ off8) :
    regionOf off8 = .imm ∨ regionOf off8 = .signs ∨ ∃ r l, regionOf off8 = .rf r l := by
  obtain rfl | rfl | h : off8 = 0x028 ∨ off8 = 0x030 ∨ 0x400 ≤ off8 := by omega
  · exact .inl rfl
  · exact .inr (.inl rfl)
  · exact .inr (.inr (regionOf_of_rf h))

theorem State.writeWord_of_busy {s : State} (hb : s.status.busy = true) (lo n v : Nat) {p : Region}
    (hp : p = .imm ∨ p = .signs ∨ ∃ r l, p = .rf r l) : s.writeWord lo n v p = s.reject := by
  rcases hp with rfl | rfl | ⟨r, l, rfl⟩ <;> exact State.unlessBusy_of_busy hb _

theorem State.offer_rejected {s : State} (h : s.status.busy = true ∨ s.status.err = true) (c : CmdWord) :
    s.offer c = s.reject :=
  if_pos (by simpa using h)

/-! ### A second write of the same bytes (R60) -/

/-- Every place but STATUS (W1C) and CMD (acceptance) holds after a second write what the first left. -/
theorem State.writeWord_again (s : State) (lo n v : Nat) {p : Region} (hs : p ≠ .status) (hc : p ≠ .cmd) :
    (s.writeWord lo n v p).writeWord lo n v p = s.writeWord lo n v p := by
  cases p with
  | id | flags | reserved => rfl
  | status => exact absurd rfl hs
  | cmd => exact absurd rfl hc
  | ctrl =>
    simp only [State.writeWord, getLsbD_zero_mergeBytes_ctrl]
    split <;> rfl
  | imm =>
    cases hb : s.status.busy with
    | true => simp [State.writeWord, hb, State.reject]
    | false => simp [State.writeWord, hb, mergeBytes_again]
  | signs =>
    cases hb : s.status.busy with
    | true => simp [State.writeWord, hb, State.reject]
    | false => simp [State.writeWord, hb, mergeBytes_signs_again]
  | rf r l => exact s.writeWord_rf_writeWord_rf r l fun w => mergeBytes_again w lo n v

end Sys2Proof.Machine

namespace Sys2Proof

open Sys2Proof.Machine Sys2Proof.Claim

/-- Settles O26: an access stops exactly where its address has no offset, and a bus address inside has its own. -/
theorem accessOutsideTheWindowStops : Obligations.AccessOutsideTheWindowStops := by
  refine ⟨fun s off n v rest hoff => step_of_access_outside (offset?_of_off_outside hoff),
    fun s a n v rest ha => step_of_access_outside (offset?_of_bus_outside ha), fun s off n v rest hoff => ⟨?_, ?_⟩⟩
  · exact atOffset_congr (offset?_of_bus_inside hoff) _
  · exact atOffset_congr (offset?_of_bus_inside hoff) _

/-- Settles O16: `hostWrite` and `readBytes` at a malformed access, one step each. -/
theorem malformedAccessesAreHarmless : Obligations.MalformedAccessesAreHarmless := by
  intro s off n v rest hoff hw
  refine ⟨fun h => ?_, fun h => ?_⟩
  · rw [step_write hoff h, State.hostWrite_of_malformed hw]
  · rw [step_read hoff h, State.readBytes_of_malformed hw]

/-- Settles O15: the word of the place is the map's word, read byte by byte. -/
theorem hostReadReturnsTheMapWord : Obligations.HostReadReturnsTheMapWord := by
  intro s off n rest hr hoff hw h
  refine ⟨_, step_read hoff h, ?_, fun k hk => ?_⟩
  · simp [State.readBytes_of_wellFormed hr hw]
  · simp [State.readBytes_of_wellFormed hr hw, hk, BitVec.extractLsb'_toNat, Nat.shiftRight_eq_div_pow,
      toNat_windowWord_regionOf]

/-- Settles O17: the access lies in one limb, whose bytes `mergeBytes` and `setLimb` replace. -/
theorem registerFileWriteStoresItsBytes : Obligations.RegisterFileWriteStoresItsBytes := by
  intro s off n v rest hr hb hrf hoff hw h
  obtain ⟨r, l, lo, rfl, hn, hlo⟩ := exists_limb_of_rf hrf hoff hw
  refine ⟨s.regs.set r.val (setLimb (s.reg r) l (mergeBytes (limbOf (s.reg r) l) lo n v)), ?_,
    fun q j hj => byteOf_set_limb s r l v hn q hj⟩
  rw [step_write hoff h, State.hostWrite_limb (s := { s with inputs := rest }) hr r l v hlo hw]
  exact congrArg Host.Outcome.next (State.unlessBusy_of_idle (s := { s with inputs := rest }) hb _)

/-- Settles O18: at the word of the limb, the merges of the two halves are the merge of all eight bytes. -/
theorem twoHalfWritesEqualOneLimbWrite : Obligations.TwoHalfWritesEqualOneLimbWrite := by
  intro s r l lo hi hlo _
  cases hr : s.rst with
  | true => simp [State.hostWrite_of_rst hr]
  | false =>
    have upper : 0x404 + 0x40 * r.val + 8 * l.val = 0x400 + 0x40 * r.val + 8 * l.val + 4 := by omega
    have low : ∀ n v, n = 4 ∨ n = 8 →
        s.hostWrite (0x400 + 0x40 * r.val + 8 * l.val) n v = s.writeWord 0 n v (.rf r l) :=
      fun n v hn => State.hostWrite_limb hr r l v (lo := 0) (by omega) (by unfold WellFormedAccess; omega)
    rw [low 4 lo (.inl rfl), low 8 _ (.inr rfl), upper, State.hostWrite_limb ((s.writeWord_rst ..).trans hr) r l hi
      (by omega) (by unfold WellFormedAccess; omega)]
    exact s.writeWord_rf_writeWord_rf r l fun w => mergeBytes_halves w hi hlo

/-- Settles O19: each word's merge, read bit by bit; CTRL and the ignored words in either state of the MAU. -/
theorem controlWordWritesTakeEffect : Obligations.ControlWordWritesTakeEffect := by
  intro s v hr
  have half : ∀ off, off % 4 = 0 → s.hostWrite off 4 v = s.writeWord (off % 8) 4 v (regionOf (off - off % 8)) :=
    fun off h => State.hostWrite_of_wellFormed hr (.inr ⟨rfl, h⟩)
  have word : ∀ off n, off % 8 = 0 → n = 4 ∨ n = 8 →
      s.hostWrite off n v = s.writeWord (off % 8) n v (regionOf (off - off % 8)) :=
    fun off n h hn => State.hostWrite_of_wellFormed hr (by unfold WellFormedAccess; omega)
  refine ⟨fun hb => ⟨?_, ⟨mergeBytes s.imm 0 4 v, ?_, fun i => getLsbD_mergeBytes_low_half s.imm v⟩,
      ⟨mergeBytes s.imm 4 4 v, ?_, fun i => getLsbD_mergeBytes_high_half s.imm v⟩,
      fun n hn => ⟨BitVec.setWidth 16 (mergeBytes (BitVec.setWidth 64 s.nn) 0 n v), ?_, fun i hi => ?_⟩, ?_⟩,
    fun n hn => ⟨?_, word _ n rfl hn, word _ n rfl hn⟩, ?_, half _ rfl, half _ rfl, fun off n hl hu => ?_⟩
  · rw [word 0x028 8 rfl (.inr rfl), ← mergeBytes_eight s.imm v]
    exact State.unlessBusy_of_idle hb _
  · exact (half 0x028 rfl).trans (State.unlessBusy_of_idle hb _)
  · exact (half 0x02C rfl).trans (State.unlessBusy_of_idle hb _)
  · exact (word 0x030 n rfl hn).trans (State.unlessBusy_of_idle hb _)
  · rw [getLsbD_mergeBytes_signs _ _ _ _ hi, if_pos (by omega)]
    rfl
  · refine (half 0x034 rfl).trans ((State.unlessBusy_of_idle hb _).trans ?_)
    rw [mergeBytes_signs_high]
  · exact (word 0x008 n rfl hn).trans (s.writeWord_ctrl_low v (by omega))
  · exact (half 0x00C rfl).trans (s.writeWord_ctrl_high 4 v (by decide))
  · by_cases hw : WellFormedAccess off n
    · rw [State.hostWrite_of_wellFormed hr hw, regionOf_of_reserved (by omega) (by omega)]
      rfl
    · exact State.hostWrite_of_malformed hw

/-- Settles O20: the place decides, SIGNS, IMM and the register file by BUSY, CMD by BUSY or ERR, CTRL not at all. -/
theorem rejectedWritesOnlySetRej : Obligations.RejectedWritesOnlySetRej := by
  intro s off n v hr hoff hw
  rw [State.hostWrite_of_wellFormed hr hw]
  refine ⟨?_, ?_⟩
  · rintro (⟨hb, hp⟩ | ⟨he, rfl⟩)
    · exact State.writeWord_of_busy hb _ _ _ (regionOf_of_source (by omega) (by omega))
    · exact State.offer_rejected he _
  · rintro rfl
    have hn : 0 < n := by unfold WellFormedAccess at hw; omega
    exact s.writeWord_ctrl_low v hn

/-- Settles O23: a read writes the read port alone, and no place but STATUS and CMD tells a second write. -/
theorem readsAndPlainWritesAreIdempotent : Obligations.ReadsAndPlainWritesAreIdempotent := by
  intro s off n v _
  refine ⟨rfl, rfl, rfl, fun hout => ?_⟩
  cases hr : s.rst with
  | true => simp [State.hostWrite_of_rst hr]
  | false =>
    by_cases hw : WellFormedAccess off n
    · rw [State.hostWrite_of_wellFormed hr hw, State.hostWrite_of_wellFormed ((s.writeWord_rst ..).trans hr) hw]
      exact s.writeWord_again _ n v (fun h => hout (by have := eq_of_regionOf_status h; omega))
        fun h => hout (by have := eq_of_regionOf_cmd h; omega)
    · simp [State.hostWrite_of_malformed hw]

end Sys2Proof
end

section
/-! PROOF. What the window's words show across a command: the frame of every command as the host reads it (O32), and
host accesses while a command is in flight, which cannot change its result (O13). -/

namespace Sys2Proof.Machine

open Sys2Proof.Claim

/-! ### The window after a command (20_memory.md R51, 10_state.md R24, R26) -/

/-- A limb's word lies in the register it is a limb of. -/
theorem rf_offset_in_register {off8 : Nat} (h : 0x400 ≤ off8) (h' : off8 < 0x800) :
    0x400 + 0x40 * (Fin.ofNat 16 ((off8 - 0x400) / 0x40)).val ≤ off8 ∧
      off8 < 0x440 + 0x40 * (Fin.ofNat 16 ((off8 - 0x400) / 0x40)).val := by
  have hr : (Fin.ofNat 16 ((off8 - 0x400) / 0x40)).val = (off8 - 0x400) / 0x40 := Nat.mod_eq_of_lt (by omega)
  omega

/-- The word of an offset other than STATUS and SIGNS depends on CTRL, CMDR, IMM, and, at their own offsets, FLAGS
and one register. -/
theorem mapWord_congr {s t : State} {off8 : Nat} (hst : off8 ≠ 0x010) (hsg : off8 ≠ 0x030) (hien : t.ien = s.ien)
    (hcmdr : t.cmdr = s.cmdr) (himm : t.imm = s.imm) (hflags : off8 = 0x020 → t.flags = s.flags)
    (hreg : 0x400 ≤ off8 →
      t.reg (Fin.ofNat 16 ((off8 - 0x400) / 0x40)) = s.reg (Fin.ofNat 16 ((off8 - 0x400) / 0x40))) :
    mapWord t off8 = mapWord s off8 := by
  simp only [mapWord, hst, hsg, if_false, hien, hcmdr, himm]
  by_cases hf : off8 = 0x020
  · simp [hf, hflags hf]
  · by_cases hrf : 0x400 ≤ off8
    · rw [hreg hrf]
      simp [hf]
    · simp [hf, hrf]

/-! ### What the command in flight depends on (30_encoding.md R91) -/

/-- `t` is `s` but for what a host access may change while a command is in flight: CTRL, the bits DONE and REJ of
STATUS, the waiting inputs and the read port. -/
structure SameCommand (s t : State) : Prop where
  curve : t.curve = s.curve
  regs : t.regs = s.regs
  nn : t.nn = s.nn
  imm : t.imm = s.imm
  flags : t.flags = s.flags
  cmdr : t.cmdr = s.cmdr
  inflight : t.inflight = s.inflight
  rst : t.rst = s.rst
  busy : t.status.busy = s.status.busy
  err : t.status.err = s.status.err
  errcode : t.status.errcode = s.status.errcode

section
variable {s t u : State}

theorem SameCommand.refl (s : State) : SameCommand s s :=
  ⟨rfl, rfl, rfl, rfl, rfl, rfl, rfl, rfl, rfl, rfl, rfl⟩

theorem SameCommand.trans (h : SameCommand s t) (k : SameCommand t u) : SameCommand s u :=
  ⟨k.curve.trans h.curve, k.regs.trans h.regs, k.nn.trans h.nn, k.imm.trans h.imm, k.flags.trans h.flags,
    k.cmdr.trans h.cmdr, k.inflight.trans h.inflight, k.rst.trans h.rst, k.busy.trans h.busy, k.err.trans h.err,
    k.errcode.trans h.errcode⟩

/-- The waiting inputs are not among what it compares. -/
theorem SameCommand.with_inputs (h : SameCommand s t) (l : List Input) : SameCommand s { t with inputs := l } :=
  { h with }

/-! ### The same command ends the same way -/

theorem SameCommand.writeOperand (h : SameCommand s t) (rd : Reg) (o : Operand) :
    SameCommand (s.writeOperand rd o) (t.writeOperand rd o) :=
  { h with regs := by simp [h.regs], nn := by simp [h.nn] }

theorem SameCommand.with_flags (h : SameCommand s t) (f : Flags) :
    SameCommand { s with flags := f } { t with flags := f } :=
  { h with flags := rfl }

theorem SameCommand.complete (h : SameCommand s t) : SameCommand s.complete t.complete :=
  { h with inflight := rfl, busy := rfl }

theorem SameCommand.raise (h : SameCommand s t) (e : ErrorKind) : SameCommand (s.raise e) (t.raise e) :=
  { h with inflight := rfl, busy := rfl, err := rfl, errcode := rfl }

/-- `exec_cases` for two states at once: both end in the same way, with the same result. -/
theorem exec_cases_of_sameCommand (h : SameCommand s t) (i : Instr) :
    (∃ rd r, exec i s = s.commitReg rd r ∧ exec i t = t.commitReg rd r) ∨
    (∃ f, exec i s = s.commitFlags f ∧ exec i t = t.commitFlags f) ∨
    (∃ e, exec i s = s.commitError e ∧ exec i t = t.commitError e) := by
  obtain ⟨curve, regs, nn, imm, flags, _, _, cmdr, inflight, rst, _, _⟩ := s
  obtain ⟨curve', regs', nn', imm', flags', _, _, cmdr', inflight', rst', _, _⟩ := t
  obtain ⟨rfl, rfl, rfl, rfl, rfl, rfl, rfl, rfl, -, -, -⟩ := h
  cases i with
  | ucmp256 | ucmp512 | uodd | scmp | peq => exact .inr (.inl ⟨_, rfl, rfl⟩)
  | uparse256 | uparse512 => exact .inr (.inr ⟨_, rfl, rfl⟩)
  | unarrow | udiv256 | udiv512 | sdiv | madd | msub | mmul | mdiv | minv | pmake | pdbl | padd | pmul =>
    exact .inl ⟨_, _, rfl, rfl⟩
  | _ => exact .inl ⟨_, .ok _, rfl, rfl⟩

theorem SameCommand.exec (h : SameCommand s t) (i : Instr) :
    ∃ u v, exec i s = .next u ∧ exec i t = .next v ∧ SameCommand u v ∧ Settled t v := by
  rcases exec_cases_of_sameCommand h i with ⟨rd, r, hs, ht⟩ | ⟨f, hs, ht⟩ | ⟨e, hs, ht⟩
  · cases r with
    | ok o => exact ⟨_, _, hs, ht, (h.writeOperand rd o).complete, settled_of_exec ht⟩
    | error e => exact ⟨_, _, hs, ht, h.raise e, settled_of_exec ht⟩
  · exact ⟨_, _, hs, ht, (h.with_flags f).complete, settled_of_exec ht⟩
  · exact ⟨_, _, hs, ht, h.raise e, settled_of_exec ht⟩

theorem SameCommand.runWord (h : SameCommand s t) (c : CmdWord) :
    ∃ u v, runWord c s = .next u ∧ runWord c t = .next v ∧ SameCommand u v ∧ Settled t v := by
  unfold Machine.runWord
  cases decodeWord c with
  | error e => exact ⟨_, _, rfl, rfl, h.raise _, (raised_raise t _).toSettled⟩
  | ok i => exact h.exec i

theorem SameCommand.mauTurn (h : SameCommand s t) (hr : s.rst = false) {f : InFlight} (hf : s.inflight = some f) :
    ∃ u v, mauTurn s = .next u ∧ mauTurn t = .next v ∧ SameCommand u v ∧ Settled t v := by
  simpa [Machine.mauTurn, hr, hf, h.rst, h.inflight] using h.runWord f.word

/-! ### Host accesses while a command is in flight (20_memory.md R61) -/

/-- A W1C write to STATUS can only clear ERR and ERRCODE, and while BUSY no other write reaches them. -/
theorem hostWrite_error_clear (off n v : Nat) (hb : s.status.busy = true) (he : s.status.err = false)
    (hc : s.status.errcode = 0#8) :
    (s.hostWrite off n v).status.err = false ∧ (s.hostWrite off n v).status.errcode = 0#8 := by
  unfold State.hostWrite
  split
  · exact ⟨he, hc⟩
  · cases regionOf (off - off % 8) with
    | id | flags | reserved | ctrl => exact ⟨he, hc⟩
    | status => simp [State.writeWord, he, hc]
    | cmd =>
      simp only [State.writeWord, State.offer_rejected (.inl hb)]
      split <;> exact ⟨he, hc⟩
    | imm | signs | rf => simp [State.writeWord, hb, he, hc]

theorem sameCommand_hostWrite (off n v : Nat) (hb : s.status.busy = true) (he : s.status.err = false)
    (hc : s.status.errcode = 0#8) : SameCommand s (s.hostWrite off n v) := by
  obtain ⟨hrst, -, -, hflags⟩ := hostWrite_frame s off n v
  obtain ⟨hregs, hnn, himm, hcmdr, hinflight, hbusy⟩ := hostWrite_busy s off n v hb
  obtain ⟨herr, hcode⟩ := hostWrite_error_clear off n v hb he hc
  exact ⟨hostWrite_curve s off n v, hregs, hnn, himm, hflags, hcmdr, hinflight, hrst, hbusy.trans hb.symm,
    herr.trans he.symm, hcode.trans hc.symm⟩

/-- An access of the window is served, and neither it nor the list of inputs touches the command in flight. -/
theorem serve_access {i : Input} (hi : i.isAccess = true) (hb : s.status.busy = true) (he : s.status.err = false)
    (hc : s.status.errcode = 0#8) : ∃ t, serve i s = .next t ∧ SameCommand s t ∧ t.inputs = s.inputs := by
  cases i with
  | read a n =>
    obtain ⟨o, ho⟩ := Option.isSome_iff_exists.mp hi
    exact ⟨s.hostRead o n, by simp [serve, atOffset, ho], { SameCommand.refl s with }, rfl⟩
  | write a n v =>
    obtain ⟨o, ho⟩ := Option.isSome_iff_exists.mp hi
    obtain ⟨-, hin, -, -⟩ := hostWrite_frame s o n v
    exact ⟨s.hostWrite o n v, by simp [serve, atOffset, ho], sameCommand_hostWrite o n v hb he hc, hin⟩
  | rst | mau => cases hi

theorem run_succ_of_step (h : step s = .next t) (k : Nat) :
    Host.Core.run Sys2Proof.core (k + 1) s = Host.Core.run Sys2Proof.core k t := by
  have hs : Sys2Proof.core.step s = .next t := h
  simp only [Host.Core.run, hs]

/-- A run through window accesses while a command is in flight arrives, one step for each, at the same command. -/
theorem run_accesses (accesses rest : List Input) (hacc : ∀ i ∈ accesses, i.isAccess = true)
    (hb : s.status.busy = true) (he : s.status.err = false) (hc : s.status.errcode = 0#8)
    (hin : s.inputs = accesses ++ rest) :
    ∃ t, SameCommand s t ∧ t.inputs = rest ∧
      ∀ k, Host.Core.run Sys2Proof.core (accesses.length + k) s = Host.Core.run Sys2Proof.core k t := by
  induction accesses generalizing s with
  | nil => exact ⟨s, .refl s, hin, fun k => by rw [List.length_nil, Nat.zero_add]⟩
  | cons i accesses ih =>
    obtain ⟨t, hserve, hsame, htin⟩ :=
      serve_access (s := { s with inputs := accesses ++ rest }) (hacc i List.mem_cons_self) hb he hc
    obtain ⟨u, hsame', huin, hrun⟩ := ih (fun j hj => hacc j (List.mem_cons_of_mem i hj))
      (hsame.busy.trans hb) (hsame.err.trans he) (hsame.errcode.trans hc) htin
    refine ⟨u, ((SameCommand.refl s).with_inputs _).trans (hsame.trans hsame'), huin, fun k => ?_⟩
    rw [List.length_cons, Nat.add_right_comm, run_succ_of_step ((step_cons s i _ hin).trans hserve), hrun]

end

end Sys2Proof.Machine

namespace Sys2Proof

open Sys2Proof.Machine Sys2Proof.Claim

/-- Settles O32: the words by the parts of the state they show, each part by its frame lemma. -/
theorem commandsLeaveOtherWindowWordsUnchanged : Obligations.CommandsLeaveOtherWindowWordsUnchanged := by
  intro i s t h off8 _ hlt hst hsg hfl hrd
  have w := settled_of_exec h
  refine mapWord_congr hst hsg w.ien w.cmdr w.imm (fun h20 => flags_of_exec h (hfl h20)) fun hrf => ?_
  exact (reg_tag_of_exec h fun hd => hrd _ hd (rf_offset_in_register hrf hlt)).1

/-- Settles O13: the accesses keep the command in flight, and two states with one command complete it alike. -/
theorem hostAccessesWhileBusyCannotChangeTheResult : Obligations.HostAccessesWhileBusyCannotChangeTheResult := by
  intro s c accesses rest hr he hc hacc
  obtain ⟨y, hsame, hyin, hrun⟩ := run_accesses (s := { s.accept c with inputs := accesses ++ .mau :: rest })
    accesses (.mau :: rest) hacc rfl he hc rfl
  obtain ⟨u, t, hu, ht, hut, hset⟩ :=
    ((((SameCommand.refl (s.accept c)).with_inputs _).trans hsame).with_inputs rest).mauTurn hr rfl
  have last : step y = .next t := (step_cons y .mau rest hyin).trans ht
  refine ⟨t, u, ?_, hu, hset.inputs, hut.regs, hut.nn, hut.flags, hut.imm, hset.cmdr.trans hsame.cmdr, hset.inflight,
    hset.busy, hset.done, hut.err, hut.errcode⟩
  exact (hrun 1).trans (run_succ_of_step last 0)

end Sys2Proof
end

section
/-! PROOF. The decoder by the rows of the opcode map: decoding and encoding are inverse (O5, O6, O9), the mask and match
of opcode_table.json say the same as the check of the fields (O7), and which words are illegal and what they do (O8). -/

namespace Sys2Proof

open Sys2Proof.Claim

/-! ### The row an opcode selects (30_encoding.md R84, R86) -/

theorem eq_of_op_eq {row row' : OpRow} (h : row ∈ opcodeMap) (h' : row' ∈ opcodeMap) (e : row.op = row'.op) :
    row = row' :=
  List.inj_on_of_nodup_map opcodeMap_ops_nodup h h' e

theorem rowOf_eq_none_iff {op : BitVec 8} : rowOf op = none ↔ ∀ row ∈ opcodeMap, row.op ≠ op := by
  simp [rowOf]

theorem rowOf_eq_some_iff {op : BitVec 8} {row : OpRow} : rowOf op = some row ↔ row ∈ opcodeMap ∧ row.op = op := by
  have sound : ∀ {r}, rowOf op = some r → r ∈ opcodeMap ∧ r.op = op := fun h =>
    ⟨List.mem_of_find?_eq_some h, by simpa using List.find?_some h⟩
  refine ⟨sound, fun ⟨hm, hop⟩ => ?_⟩
  cases hf : rowOf op with
  | none => exact absurd hop (rowOf_eq_none_iff.mp hf row hm)
  | some row' => rw [eq_of_op_eq hm (sound hf).1 (hop.trans (sound hf).2.symm)]

/-! ### Decoding by rows (R85, R86) -/

/-- The command a row makes of the fields of a word. -/
def OpRow.command (row : OpRow) (f : Fields) : Instr :=
  row.make f.rd.toFin f.rs1.toFin f.rs2.toFin f.rs3.toFin

theorem decodeFields_of_row {f : Fields} {row : OpRow} (hm : row ∈ opcodeMap) (hop : f.op = row.op)
    (hw : f.wellFormed row.shape = true) : decodeFields f = .ok (row.command f) := by
  have hrow : rowOf f.op = some row := rowOf_eq_some_iff.mpr ⟨hm, hop.symm⟩
  obtain ⟨hrsv, hunused⟩ : f.rsv = 0#8 ∧ row.shape.unusedZero f = true := by simpa [Fields.wellFormed] using hw
  simp [decodeFields, hrow, hrsv, hunused, OpRow.command]

theorem row_of_decodeFields {f : Fields} {i : Instr} (h : decodeFields f = .ok i) :
    ∃ row ∈ opcodeMap, f.op = row.op ∧ f.wellFormed row.shape = true ∧ i = row.command f := by
  unfold decodeFields at h
  split at h
  · cases h
  · next row hrow =>
    obtain ⟨hm, hop⟩ := rowOf_eq_some_iff.mp hrow
    split_ifs at h with hrsv hunused
    cases h
    exact ⟨row, hm, hop.symm, by simpa [Fields.wellFormed] using And.intro (not_not.mp hrsv) hunused, rfl⟩

/-- A word is illegal exactly when the row its opcode selects, if there is one, rejects its fields. -/
theorem decodeWord_error_iff {c : CmdWord} : (∃ e, decodeWord c = .error e) ↔
    ∀ row ∈ opcodeMap, (fieldsOf c).op = row.op → (fieldsOf c).wellFormed row.shape = false := by
  constructor
  · rintro ⟨e, he⟩ row hm hop
    by_contra hw
    have := decodeFields_of_row hm hop (by simpa using hw)
    simp [decodeWord, this] at he
  · intro h
    cases hd : decodeWord c with
    | error e => exact ⟨e, rfl⟩
    | ok i =>
      obtain ⟨row, hm, hop, hw, -⟩ := row_of_decodeFields hd
      simp [h row hm hop] at hw

/-! ### Encoding by rows (R82, R87) -/

/-- The fields of a row's command: its opcode, its registers where the shape uses them, and 0 elsewhere. -/
theorem fields_make {row : OpRow} (h : row ∈ opcodeMap) (rd a b p : Reg) : (row.make rd a b p).fields =
    { op := row.op
      rd := if row.shape.usesRd then .ofFin rd else 0#4
      rs1 := if row.shape.usesRs1 then .ofFin a else 0#4
      rs2 := if row.shape.usesRs2 then .ofFin b else 0#4
      rs3 := if row.shape.usesRs3 then .ofFin p else 0#4
      rsv := 0#8 } := by
  fin_cases h <;> rfl

theorem fields_command {row : OpRow} (hm : row ∈ opcodeMap) {f : Fields} (hop : f.op = row.op)
    (hw : f.wellFormed row.shape = true) : (row.command f).fields = f := by
  have keep : ∀ (u : Bool) (x : BitVec 4), u = true ∨ x = 0#4 → (if u then BitVec.ofFin x.toFin else 0#4) = x := by
    rintro u x (rfl | rfl)
    · rfl
    · exact ite_self _
  simp only [Fields.wellFormed, Shape.unusedZero, Bool.and_eq_true, Bool.or_eq_true, beq_iff_eq] at hw
  obtain ⟨hrsv, ⟨⟨hrd, h1⟩, h2⟩, h3⟩ := hw
  rw [OpRow.command, fields_make hm, keep _ _ hrd, keep _ _ h1, keep _ _ h2, keep _ _ h3, ← hop, ← hrsv]

/-- The opcode of each command selects its own row, whose check its fields pass at every register. -/
theorem decodeFields_fields (i : Instr) : decodeFields i.fields = .ok i := by
  cases i <;> rfl

@[simp] theorem fieldsOf_encode (i : Instr) : fieldsOf (encode i) = i.fields :=
  fieldsOf_packFields i.fields

@[simp] theorem decodeWord_encode (i : Instr) : decodeWord (encode i) = .ok i := by
  rw [decodeWord, fieldsOf_encode, decodeFields_fields]

theorem encode_of_decodeWord {c : CmdWord} {i : Instr} (h : decodeWord c = .ok i) : encode i = c := by
  obtain ⟨row, hm, hop, hw, rfl⟩ := row_of_decodeFields h
  rw [encode, fields_command hm hop hw, packFields_fieldsOf]

/-! ### Mask and match (opcode_table.json) -/

/-- Two field tuples, bit by bit. -/
def Fields.and (f g : Fields) : Fields :=
  ⟨f.op &&& g.op, f.rd &&& g.rd, f.rs1 &&& g.rs1, f.rs2 &&& g.rs2, f.rs3 &&& g.rs3, f.rsv &&& g.rsv⟩

theorem fieldsOf_and (c d : CmdWord) : fieldsOf (c &&& d) = (fieldsOf c).and (fieldsOf d) := by
  simp [fieldsOf, Fields.and, BitVec.extractLsb'_and]

/-- The mask of a register field: no bit where the shape uses it, all four where it must be 0. -/
def maskUnless (used : Bool) : BitVec 4 := if used then 0#4 else BitVec.allOnes 4

theorem and_maskUnless_eq_zero_iff (x : BitVec 4) (used : Bool) :
    x &&& maskUnless used = 0#4 ↔ (used || x == 0#4) = true := by
  cases used with
  | true => simp [maskUnless]
  | false => rw [maskUnless, if_neg Bool.false_ne_true, BitVec.and_allOnes, Bool.false_or, beq_iff_eq]

/-- The fixed bits of a shape's words: OP, RSV and every field the shape does not use. -/
def Shape.maskFields (sh : Shape) : Fields :=
  ⟨BitVec.allOnes 8, maskUnless sh.usesRd, maskUnless sh.usesRs1, maskUnless sh.usesRs2, maskUnless sh.usesRs3,
    BitVec.allOnes 8⟩

/-- The match and mask of a row, by its opcode and shape. -/
def OpRow.tableRow (row : OpRow) : CmdWord × CmdWord :=
  (packFields ⟨row.op, 0#4, 0#4, 0#4, 0#4, 0#8⟩, packFields row.shape.maskFields)

theorem tableRows_eq_map : tableRows = opcodeMap.map OpRow.tableRow := by
  decide

theorem and_tableRow_eq_iff (c : CmdWord) (row : OpRow) : c &&& row.tableRow.2 = row.tableRow.1 ↔
    (fieldsOf c).op = row.op ∧ (fieldsOf c).wellFormed row.shape = true := by
  have by_fields : ∀ (d : CmdWord) (g : Fields), d = packFields g ↔ fieldsOf d = g := fun d g =>
    ⟨fun h => by rw [h, fieldsOf_packFields], fun h => by rw [← h, packFields_fieldsOf]⟩
  rw [OpRow.tableRow, by_fields, fieldsOf_and, fieldsOf_packFields]
  simp only [Fields.and, Shape.maskFields, Fields.mk.injEq, BitVec.and_allOnes, and_maskUnless_eq_zero_iff,
    Fields.wellFormed, Shape.unusedZero, Bool.and_eq_true, beq_iff_eq]
  tauto

theorem length_filter_tableRows (c : CmdWord) : (tableRows.filter fun r => c &&& r.2 == r.1).length =
    opcodeMap.countP fun row => c &&& row.tableRow.2 == row.tableRow.1 := by
  rw [← List.countP_eq_length_filter, tableRows_eq_map, List.countP_map]
  rfl

/-- No two rows share an opcode, so a legal word meets no row but the one its command comes from. -/
theorem countP_tableRow_of_legal {c : CmdWord} {i : Instr} (h : decodeWord c = .ok i) :
    (opcodeMap.countP fun row => c &&& row.tableRow.2 == row.tableRow.1) = 1 := by
  obtain ⟨row, hm, hop, hw, -⟩ := row_of_decodeFields h
  have same_op : ∀ row' ∈ opcodeMap, c &&& row'.tableRow.2 = row'.tableRow.1 ↔ row'.op = row.op := by
    intro row' hm'
    rw [and_tableRow_eq_iff, hop, eq_comm]
    exact and_iff_left_of_imp fun e => eq_of_op_eq hm' hm e ▸ hw
  calc opcodeMap.countP (fun row' => c &&& row'.tableRow.2 == row'.tableRow.1)
      = opcodeMap.countP ((· == row.op) ∘ OpRow.op) := List.countP_congr (by simpa using same_op)
    _ = (opcodeMap.map OpRow.op).count row.op := List.countP_map.symm
    _ = 1 := List.count_eq_one_of_mem opcodeMap_ops_nodup (List.mem_map_of_mem hm)

theorem countP_tableRow_of_illegal {c : CmdWord} (h : ∃ e, decodeWord c = .error e) :
    (opcodeMap.countP fun row => c &&& row.tableRow.2 == row.tableRow.1) = 0 := by
  refine List.countP_eq_zero.mpr fun row hm hr => ?_
  obtain ⟨hop, hw⟩ := (and_tableRow_eq_iff c row).mp (by simpa using hr)
  simp [decodeWord_error_iff.mp h row hm hop] at hw

/-! ### Illegal words (R85) -/

theorem toNat_op_fieldsOf (c : CmdWord) : (fieldsOf c).op.toNat = c.toNat % 256 := by
  simp [fieldsOf, BitVec.extractLsb'_toNat]

theorem toNat_rsv_fieldsOf (c : CmdWord) : (fieldsOf c).rsv.toNat = c.toNat / 2 ^ 24 := by
  have := c.isLt
  simp only [fieldsOf, BitVec.extractLsb'_toNat, Nat.shiftRight_eq_div_pow]
  omega

/-- R85's list of reserved opcodes is the complement of the map. -/
theorem reservedOp_iff (op : BitVec 8) : ReservedOp op.toNat ↔ ∀ row ∈ opcodeMap, op ≠ row.op := by
  unfold ReservedOp
  revert op
  decide +kernel

theorem wellFormed_of_rsv_ne_zero {f : Fields} (h : f.rsv ≠ 0#8) (sh : Shape) : f.wellFormed sh = false := by
  simp [Fields.wellFormed, h]

/-- The illegal words of R85, by the table: no row has the opcode, RSV is nonzero, or the opcode's row is missed. -/
theorem illegal_iff (c : CmdWord) : (∃ e, decodeWord c = .error e) ↔
    (ReservedOp (c.toNat % 256) ∨ c.toNat / 2 ^ 24 ≠ 0 ∨
      ∃ r ∈ tableRows, c.toNat % 256 = r.1.toNat % 256 ∧ c &&& r.2 ≠ r.1) := by
  have op_iff : ∀ row : OpRow,
      (fieldsOf c).op.toNat = row.tableRow.1.toNat % 256 ↔ (fieldsOf c).op = row.op := fun row => by
    rw [← toNat_op_fieldsOf, OpRow.tableRow, fieldsOf_packFields, BitVec.toNat_inj]
  have rsv_iff : c.toNat / 2 ^ 24 ≠ 0 ↔ (fieldsOf c).rsv ≠ 0#8 := by
    rw [← toNat_rsv_fieldsOf, ne_eq, ne_eq, ← BitVec.toNat_inj, BitVec.toNat_zero]
  rw [decodeWord_error_iff, rsv_iff, ← toNat_op_fieldsOf, reservedOp_iff, tableRows_eq_map]
  simp only [List.mem_map, exists_exists_and_eq_and, op_iff, ne_eq, and_tableRow_eq_iff]
  constructor
  · intro h
    by_cases hres : ∃ row ∈ opcodeMap, (fieldsOf c).op = row.op
    · obtain ⟨row, hm, hop⟩ := hres
      exact .inr (.inr ⟨row, hm, hop, by simp [h row hm hop]⟩)
    · exact .inl fun row hm hop => hres ⟨row, hm, hop⟩
  · rintro (hres | hrsv | ⟨row, hm, hop, hw⟩) row' hm' hop'
    · exact absurd hop' (hres row' hm')
    · exact wellFormed_of_rsv_ne_zero hrsv _
    · rw [← eq_of_op_eq hm hm' (hop.symm.trans hop')]
      simpa [hop] using hw

end Sys2Proof

namespace Sys2Proof.Machine

/-! ### What an illegal word does (R85, 60_exceptions.md R203) -/

section
variable {s : State} {c : CmdWord}

theorem State.offer_accepted (hb : s.status.busy = false) (he : s.status.err = false) (c : CmdWord) :
    s.offer c = s.accept c :=
  if_neg (by simp [hb, he])

theorem State.snapshot_of_illegal (h : ∃ e, decodeWord c = .error e) :
    s.snapshot c = ⟨c, none, none, none, none⟩ := by
  obtain ⟨e, he⟩ := h
  simp [State.snapshot, he]

theorem mauTurn_of_inflight (hr : s.rst = false) {f : InFlight} (hf : s.inflight = some f) :
    mauTurn s = runWord f.word s := by
  simp [mauTurn, hr, hf]

theorem runWord_of_legal {i : Instr} (h : decodeWord c = .ok i) : runWord c s = exec i s := by
  simp [runWord, h]

theorem runWord_of_illegal (h : ∃ e, decodeWord c = .error e) : runWord c s = .next (s.raise .illegalCommand) := by
  obtain ⟨e, he⟩ := h
  simp [runWord, he, State.commitError]

end

end Sys2Proof.Machine

namespace Sys2Proof

open Sys2Proof.Machine

/-- Settles O5: the fields of a command's word are the command's, whose row makes it again. -/
theorem decodingAnEncodedCommandGivesItBack : Obligations.DecodingAnEncodedCommandGivesItBack :=
  decodeWord_encode

/-- Settles O6: the row that decodes a word makes a command with the word's own fields. -/
theorem encodingADecodedWordGivesItBack : Obligations.EncodingADecodedWordGivesItBack :=
  fun _ _ => encode_of_decodeWord

/-- Settles O7: a row's mask and match test its opcode and its fields' check. -/
theorem everyWordMatchesOneTableRowOrIsIllegal : Obligations.EveryWordMatchesOneTableRowOrIsIllegal := by
  intro c
  rw [length_filter_tableRows]
  cases hd : decodeWord c with
  | ok i => exact countP_tableRow_of_legal hd
  | error e => exact countP_tableRow_of_illegal ⟨e, hd⟩

/-- Settles O8: the illegal words by the rows of the map, and the completion of one by `State.raise`. -/
theorem illegalWordsCompleteWithIllegalCommand : Obligations.IllegalWordsCompleteWithIllegalCommand := by
  refine ⟨illegal_iff, fun s c hb he => State.offer_accepted hb he c, fun s c => State.snapshot_of_illegal,
    fun s f hr hf hd => ⟨s.raise .illegalCommand, ?_, raised_raise s .illegalCommand⟩⟩
  rw [mauTurn_of_inflight hr hf, runWord_of_illegal hd]

/-- Settles O9: each word is evaluated by the decoder. -/
theorem exampleWordsDecode : Obligations.ExampleWordsDecode := by
  unfold Obligations.ExampleWordsDecode
  decide

end Sys2Proof
end

section
/-! PROOF. From the CMD write to the completion: the word in flight is run (O10), acceptance and rejection (O11), a
command computes from the values at acceptance (O12), and every command ends in a success or a reported error (O29). -/

namespace Sys2Proof.Machine

/-! ### What a command computes from (30_encoding.md R91, R92) -/

/-- `t` shows command i the same sources as `s`: CURVE, FLAGS, IMM and the operands of the register fields of i. -/
structure SameSources (i : Instr) (s t : State) : Prop where
  curve : t.curve = s.curve
  flags : t.flags = s.flags
  src1 : t.src1 i.fields.rs1.toFin = s.src1 i.fields.rs1.toFin
  src2 : t.src2 i.fields.rs2.toFin = s.src2 i.fields.rs2.toFin
  src3 : t.src3 i.fields.rs3.toFin = s.src3 i.fields.rs3.toFin
  imm : t.srcImm = s.srcImm

/-- `exec_cases` for two states with the same sources: both end in the same way, with the same result. -/
theorem exec_cases_of_sameSources {i : Instr} {s t : State} (h : SameSources i s t) :
    (∃ rd r, exec i s = s.commitReg rd r ∧ exec i t = t.commitReg rd r) ∨
    (∃ f, exec i s = s.commitFlags f ∧ exec i t = t.commitFlags f) ∨
    (∃ e, exec i s = s.commitError e ∧ exec i t = t.commitError e) := by
  obtain ⟨curve, flags, src1, src2, src3, imm⟩ := h
  cases i with
  | ucmp256 | ucmp512 | uodd | scmp | peq =>
    refine .inr (.inl ⟨_, rfl, ?_⟩)
    simp only [Instr.fields] at src1 src2
    simp only [← src1, ← src2, ← flags]
    rfl
  | uparse256 | uparse512 => exact .inr (.inr ⟨_, rfl, rfl⟩)
  | uzero256 | uzero512 | uone256 | uone512 | umax256 | umax512 => exact .inl ⟨_, .ok _, rfl, rfl⟩
  | unarrow | udiv256 | udiv512 | sdiv | madd | msub | mmul | mdiv | minv | pmake | pdbl | padd | pmul =>
    refine .inl ⟨_, _, rfl, ?_⟩
    simp only [Instr.fields] at src1 src2 src3
    simp only [← src1, ← src2, ← src3, ← curve]
    rfl
  | _ =>
    refine .inl ⟨_, .ok _, rfl, ?_⟩
    simp only [Instr.fields] at src1 src2
    simp only [← src1, ← src2, ← imm, ← curve]
    rfl

/-! ### The snapshot of acceptance (R91) -/

section
variable {s : State}

/-- Each source the snapshot holds is the register its field names, or IMM. -/
theorem State.snapshot_sources (s : State) (c : CmdWord) :
    ((s.snapshot c).src1.getD (s.operand (fieldsOf c).rs1.toFin) = s.operand (fieldsOf c).rs1.toFin) ∧
    ((s.snapshot c).src2.getD (s.operand (fieldsOf c).rs2.toFin) = s.operand (fieldsOf c).rs2.toFin) ∧
    ((s.snapshot c).src3.getD (s.operand (fieldsOf c).rs3.toFin) = s.operand (fieldsOf c).rs3.toFin) ∧
    ((s.snapshot c).imm.getD s.imm = s.imm) := by
  unfold State.snapshot
  dsimp only
  split
  · refine ⟨?_, ?_, ?_, ?_⟩ <;> split_ifs <;> rfl
  · exact ⟨rfl, rfl, rfl, rfl⟩

theorem State.src1_of_idle (h : s.inflight = none) (r : Reg) : s.src1 r = s.operand r := by
  simp [State.src1, h]

theorem State.src2_of_idle (h : s.inflight = none) (r : Reg) : s.src2 r = s.operand r := by
  simp [State.src2, h]

theorem State.src3_of_idle (h : s.inflight = none) (r : Reg) : s.src3 r = s.operand r := by
  simp [State.src3, h]

theorem State.srcImm_of_idle (h : s.inflight = none) : s.srcImm = s.imm := by
  simp [State.srcImm, h]

/-- The waiting inputs and the read port are not among the sources (log 1, log 4). -/
theorem sameSources_accept (h : s.inflight = none) (i : Instr) (l : List Input) (d : List Byte) :
    SameSources i s { s.accept (encode i) with inputs := l, readData := d } := by
  obtain ⟨src1, src2, src3, imm⟩ := s.snapshot_sources (encode i)
  rw [fieldsOf_encode] at src1 src2 src3
  exact ⟨rfl, rfl, src1.trans (State.src1_of_idle h _).symm, src2.trans (State.src2_of_idle h _).symm,
    src3.trans (State.src3_of_idle h _).symm, imm.trans (State.srcImm_of_idle h).symm⟩

/-- R91 as an equation: an accepted command ends as the same command run on the registers of an idle MAU, but for CMDR,
which acceptance has written, and for the inputs and the read port, which no command reaches. -/
theorem exec_accept (h : s.inflight = none) (i : Instr) (l : List Input) (d : List Byte) :
    ∃ u, exec i s = .next u ∧ exec i { s.accept (encode i) with inputs := l, readData := d } =
      .next { u with cmdr := encode i, inputs := l, readData := d } := by
  rcases exec_cases_of_sameSources (sameSources_accept h i l d) with ⟨rd, r, hs, ht⟩ | ⟨f, hs, ht⟩ | ⟨e, hs, ht⟩
  · cases r with
    | ok o => exact ⟨_, hs, ht⟩
    | error e => exact ⟨_, hs, ht⟩
  · exact ⟨_, hs, ht⟩
  · exact ⟨_, hs, ht⟩

/-! ### Writes to CMD (R90) -/

theorem State.hostWrite_cmd (hr : s.rst = false) {n : Nat} (hn : n = 4 ∨ n = 8) (v : Nat) :
    s.hostWrite 0x018 n v = s.offer (BitVec.ofNat 32 v) :=
  State.hostWrite_of_wellFormed hr (by unfold Claim.WellFormedAccess; omega)

/-- The upper half of the CMD word is reserved (20_memory.md R56). -/
theorem State.hostWrite_cmd_high (s : State) (v : Nat) : s.hostWrite 0x01C 4 v = s := by
  cases hr : s.rst with
  | true => exact State.hostWrite_of_rst hr
  | false => exact State.hostWrite_of_wellFormed hr (.inr ⟨rfl, rfl⟩)

end

/-! ### No command reports IllegalCommand (60_exceptions.md R200) -/

/-- A computation that never reports IllegalCommand: its errors are those of codes 1 to 6. -/
def NeverIllegal {α : Type} (r : Except ErrorKind α) : Prop := r ≠ .error .illegalCommand

section
variable {α β : Type} {r : Except ErrorKind α}

/-- An error that another computation passes on. -/
theorem NeverIllegal.pass (h : NeverIllegal r) {e : ErrorKind} (he : r = .error e) :
    NeverIllegal (.error e : Except ErrorKind β) :=
  fun hi => h (by cases hi; exact he)

theorem NeverIllegal.map (h : NeverIllegal r) (f : α → β) : NeverIllegal (r.map f) := by
  cases r with
  | ok a => exact nofun
  | error e => exact h.pass rfl

theorem NeverIllegal.bind (h : NeverIllegal r) {f : α → Except ErrorKind β} (hf : ∀ a, NeverIllegal (f a)) :
    NeverIllegal (r >>= f) := by
  cases r with
  | ok a => exact hf a
  | error e => exact h.pass rfl

end

theorem udiv_neverIllegal (a b : Nat) : NeverIllegal (udiv a b) := by
  unfold udiv
  split <;> exact nofun

theorem narrow_neverIllegal (v : Nat) : NeverIllegal (narrow v) := by
  unfold narrow
  split <;> exact nofun

theorem sdiv_neverIllegal (a b : Signed) : NeverIllegal (sdiv a b) := by
  unfold sdiv
  split <;> exact nofun

theorem clockAdd_neverIllegal (a b p : Nat) : NeverIllegal (clockAdd a b p) := narrow_neverIllegal _

theorem clockSub_neverIllegal (a b p : Nat) : NeverIllegal (clockSub a b p) := narrow_neverIllegal _

theorem clockMul_neverIllegal (a b p : Nat) : NeverIllegal (clockMul a b p) := by
  unfold clockMul
  dsimp only
  split
  · split
    · exact narrow_neverIllegal _
    · next he => exact (udiv_neverIllegal _ _).pass he
  · exact narrow_neverIllegal _

theorem modinvLoop_neverIllegal (fuel : Nat) (t nt r nr : Signed) : NeverIllegal (modinvLoop fuel t nt r nr) := by
  induction fuel generalizing t nt r nr with
  | zero => exact nofun
  | succ fuel ih =>
    unfold modinvLoop
    split
    · exact nofun
    · split
      · exact ih _ _ _ _
      · next he => exact (sdiv_neverIllegal _ _).pass he

theorem modinv_neverIllegal (b p : Nat) : NeverIllegal (modinv b p) := by
  unfold modinv
  split
  · exact nofun
  · split
    · split
      · exact nofun
      · exact narrow_neverIllegal _
    · next he => exact (modinvLoop_neverIllegal _ _ _ _ _).pass he

theorem clockDiv_neverIllegal (a b p : Nat) : NeverIllegal (clockDiv a b p) := by
  unfold clockDiv
  split
  · exact clockMul_neverIllegal _ _ _
  · next he => exact (modinv_neverIllegal _ _).pass he

theorem pdbl_neverIllegal (C : Curve) (P : Point) : NeverIllegal (pdbl C P) := by
  unfold pdbl
  exact (clockMul_neverIllegal _ _ _).bind fun _ => (clockMul_neverIllegal _ _ _).bind fun _ =>
    (clockAdd_neverIllegal _ _ _).bind fun _ => (clockMul_neverIllegal _ _ _).bind fun _ =>
    (clockDiv_neverIllegal _ _ _).bind fun _ => (clockMul_neverIllegal _ _ _).bind fun _ =>
    (clockMul_neverIllegal _ _ _).bind fun _ => (clockSub_neverIllegal _ _ _).bind fun _ =>
    (clockSub_neverIllegal _ _ _).bind fun _ => (clockMul_neverIllegal _ _ _).bind fun _ =>
    (clockSub_neverIllegal _ _ _).bind fun _ => nofun

theorem padd_neverIllegal (C : Curve) (P Q : Point) : NeverIllegal (padd C P Q) := by
  unfold padd
  split
  · exact nofun
  · exact (clockSub_neverIllegal _ _ _).bind fun _ => (clockSub_neverIllegal _ _ _).bind fun _ =>
      (clockDiv_neverIllegal _ _ _).bind fun _ => (clockMul_neverIllegal _ _ _).bind fun _ =>
      (clockSub_neverIllegal _ _ _).bind fun _ => (clockSub_neverIllegal _ _ _).bind fun _ =>
      (clockSub_neverIllegal _ _ _).bind fun _ => (clockMul_neverIllegal _ _ _).bind fun _ =>
      (clockSub_neverIllegal _ _ _).bind fun _ => nofun

theorem psmulFrom_neverIllegal (C : Curve) (fuel k : Nat) (P : Point) : NeverIllegal (psmulFrom C fuel k P) := by
  induction fuel generalizing k with
  | zero => exact nofun
  | succ fuel ih =>
    unfold psmulFrom
    split_ifs
    · exact nofun
    · exact nofun
    · split
      · exact pdbl_neverIllegal C _
      · next he => exact (ih _).pass he
    · split
      · exact padd_neverIllegal C _ P
      · next he => exact (ih _).pass he

theorem pointCheck_neverIllegal (C : Curve) (x y : Nat) : NeverIllegal (pointCheck C x y) := by
  unfold pointCheck
  split
  · exact nofun
  · refine (clockMul_neverIllegal _ _ _).bind fun _ => (clockMul_neverIllegal _ _ _).bind fun _ =>
      (clockMul_neverIllegal _ _ _).bind fun _ => (clockMul_neverIllegal _ _ _).bind fun _ =>
      (clockAdd_neverIllegal _ _ _).bind fun _ => (clockAdd_neverIllegal _ _ _).bind fun _ => ?_
    dsimp only
    split <;> exact nofun

/-! ### The end of every command (R92, 60_exceptions.md R201, R202) -/

/-- The answer is a next state, after a success or after an error completion with a code from 1 to 6. -/
def EndsWell (s : State) (r : Result) : Prop :=
  ∃ t, r = .next t ∧ (Succeeded s t ∨ ∃ code, 1 ≤ code ∧ code ≤ 6 ∧ Raised s t code)

theorem ErrorKind.code_range_of_ne_illegalCommand {e : ErrorKind} (h : e ≠ .illegalCommand) :
    1 ≤ e.code.toNat ∧ e.code.toNat ≤ 6 := by
  cases e with
  | illegalCommand => exact absurd rfl h
  | _ => decide

theorem endsWell_raise (s : State) {e : ErrorKind} (h : e ≠ .illegalCommand) : EndsWell s (.next (s.raise e)) :=
  have ⟨lower, upper⟩ := ErrorKind.code_range_of_ne_illegalCommand h
  ⟨_, rfl, .inr ⟨_, lower, upper, raised_raise s e⟩⟩

theorem endsWell_commitReg (s : State) (rd : Reg) {r : Except ErrorKind Operand} (h : NeverIllegal r) :
    EndsWell s (s.commitReg rd r) := by
  cases r with
  | ok o => exact ⟨_, rfl, .inl (wroteReg_complete s rd o).toSucceeded⟩
  | error e => exact endsWell_raise s fun he => h (by rw [he])

theorem endsWell_commitFlags (s : State) (f : Flags) : EndsWell s (s.commitFlags f) :=
  ⟨_, rfl, .inl (wroteFlags_complete s f).toSucceeded⟩

theorem exec_endsWell (i : Instr) (s : State) : EndsWell s (exec i s) := by
  cases i with
  | ucmp256 | ucmp512 | uodd | scmp | peq => exact endsWell_commitFlags s _
  | uparse256 | uparse512 => exact endsWell_raise s nofun
  | unarrow => exact endsWell_commitReg s _ ((narrow_neverIllegal _).map _)
  | udiv256 | udiv512 => exact endsWell_commitReg s _ ((udiv_neverIllegal _ _).map _)
  | sdiv => exact endsWell_commitReg s _ ((sdiv_neverIllegal _ _).map _)
  | madd => exact endsWell_commitReg s _ ((clockAdd_neverIllegal _ _ _).map _)
  | msub => exact endsWell_commitReg s _ ((clockSub_neverIllegal _ _ _).map _)
  | mmul => exact endsWell_commitReg s _ ((clockMul_neverIllegal _ _ _).map _)
  | mdiv | minv => exact endsWell_commitReg s _ ((clockDiv_neverIllegal _ _ _).map _)
  | pmake => exact endsWell_commitReg s _ ((pointCheck_neverIllegal _ _ _).map _)
  | pdbl => exact endsWell_commitReg s _ ((pdbl_neverIllegal _ _).map _)
  | padd => exact endsWell_commitReg s _ ((padd_neverIllegal _ _ _).map _)
  | pmul => exact endsWell_commitReg s _ ((psmulFrom_neverIllegal _ _ _ _).map _)
  | _ => exact endsWell_commitReg s _ (r := .ok _) nofun

end Sys2Proof.Machine

namespace Sys2Proof

open Sys2Proof.Machine

/-- Settles O10: the step is the MAU's turn, and the turn runs the decoded word. -/
theorem stepRunsTheDecodedCommand : Obligations.StepRunsTheDecodedCommand := by
  intro s f i hr hf hd
  refine ⟨fun h => ?_, fun rest h => ?_⟩
  · rw [step_nil s h, mauTurn_of_inflight hr hf, runWord_of_legal hd]
  · rw [step_cons s _ rest h, serve, mauTurn_of_inflight (s := { s with inputs := rest }) hr hf, runWord_of_legal hd]

/-- Settles O11: a write of the low half of CMD offers its word, and BUSY or ERR decide. -/
theorem commandWriteIsAcceptedOrRejected : Obligations.CommandWriteIsAcceptedOrRejected := by
  refine ⟨fun s v rest h => ?_, fun s n v rest hr hn h => ?_⟩
  · rw [step_write (by decide) h, State.hostWrite_cmd_high]
  · rw [step_write (by decide) h, State.hostWrite_cmd (s := { s with inputs := rest }) hr hn]
    refine ⟨fun hrej => ?_, fun hb he => ?_⟩
    · rw [State.offer_rejected (s := { s with inputs := rest }) hrej]
      rfl
    · rw [State.offer_accepted (s := { s with inputs := rest }) hb he]
      rfl

/-- Settles O12: the two ends of a command differ in CMDR alone. -/
theorem acceptedCommandComputesFromTheRegisters : Obligations.AcceptedCommandComputesFromTheRegisters := by
  intro s i h
  obtain ⟨u, hidle, haccepted⟩ := exec_accept h i s.inputs s.readData
  exact ⟨_, u, haccepted, hidle, rfl, rfl, rfl, rfl, rfl, rfl⟩

/-- Settles O29: what each command commits is never IllegalCommand. -/
theorem everyCommandSucceedsOrReportsAnError : Obligations.EveryCommandSucceedsOrReportsAnError :=
  exec_endsWell

end Sys2Proof
end

section
/-! PROOF. Host notation as runs (30_encoding.md R88, R89): the eight writes of LDR (O27), and EXEC with its polls
(O28). -/

namespace Sys2Proof.Machine

open Sys2Proof.Claim

/-! ### Runs -/

theorem run_add_of_run {m : Nat} {s t : State} (h : Host.Core.run Sys2Proof.core m s = .next t) (k : Nat) :
    Host.Core.run Sys2Proof.core (m + k) s = Host.Core.run Sys2Proof.core k t := by
  induction m generalizing s with
  | zero => cases h; rw [Nat.zero_add]
  | succ m ih =>
    cases hs : step s with
    | next u =>
      rw [run_succ_of_step hs] at h
      rw [Nat.add_right_comm, run_succ_of_step hs, ih h]
    | fault | refused =>
      have hs' : Sys2Proof.core.step s = _ := hs
      simp [Host.Core.run, hs'] at h

theorem run_one_of_step {s t : State} (h : step s = .next t) : Host.Core.run Sys2Proof.core 1 s = .next t :=
  run_succ_of_step h 0

/-! ### Loading a register limb by limb (R89) -/

/-- `x` with its limbs 0 to k - 1 replaced by those of `v`. -/
def loadLimbs (x : RegVal) (v : Nat) : Nat → RegVal
  | 0 => x
  | k + 1 => setLimb (loadLimbs x v k) (Fin.ofNat 8 k) (BitVec.ofNat 64 (limb k v))

theorem testBit_limb (l v i : Nat) : (limb l v).testBit i = (decide (i < 64) && v.testBit (64 * l + i)) := by
  rw [limb, Nat.testBit_mod_two_pow, Nat.testBit_div_two_pow, Nat.add_comm]

theorem getLsbD_loadLimbs (x : RegVal) (v : Nat) {k i : Nat} (hk : k ≤ 8) (hi : i < 512) :
    (loadLimbs x v k).getLsbD i = if i < 64 * k then v.testBit i else x.getLsbD i := by
  induction k with
  | zero => rfl
  | succ k ih =>
    have hval : (Fin.ofNat 8 k).val = k := Nat.mod_eq_of_lt hk
    rw [loadLimbs, getLsbD_setLimb _ _ _ _ hi, hval, ih (by omega)]
    by_cases hlow : i < 64 * k
    · rw [if_neg (by omega), if_pos hlow, if_pos (by omega)]
    · by_cases hhere : i < 64 * k + 64
      · have back : 64 * k + (i - 64 * k) = i := by omega
        have hbit : i - 64 * k < 64 := by omega
        rw [if_pos (by omega), if_pos (by omega), BitVec.getLsbD_ofNat, testBit_limb, back]
        simp [hbit]
      · rw [if_neg (by omega), if_neg hlow, if_neg (by omega)]

theorem loadLimbs_eight (x : RegVal) (v : Nat) : loadLimbs x v 8 = BitVec.ofNat 512 v := by
  apply BitVec.eq_of_getLsbD_eq
  intro i hi
  rw [getLsbD_loadLimbs x v (Nat.le_refl 8) hi, if_pos (by omega), BitVec.getLsbD_ofNat]
  simp [hi]

section
variable {s : State}

/-- One write of LDR, with an idle MAU. -/
theorem step_limb_write (hr : s.rst = false) (hb : s.status.busy = false) (r : Reg) {l : Nat} (hl : l < 8) (w : Nat)
    {rest : List Input} (h : s.inputs = HostOp.wr (HostOp.limbOffset r l) w :: rest) :
    step s = .next { s with
      inputs := rest
      regs := s.regs.set r.val (setLimb (s.reg r) (Fin.ofNat 8 l) (BitVec.ofNat 64 w)) } := by
  have hval : (Fin.ofNat 8 l).val = l := Nat.mod_eq_of_lt hl
  have hoff : HostOp.limbOffset r l = 0x400 + 0x40 * r.val + 8 * (Fin.ofNat 8 l).val + 0 := by rw [hval]; rfl
  have hwf : WellFormedAccess (0x400 + 0x40 * r.val + 8 * (Fin.ofNat 8 l).val + 0) 8 := .inl ⟨rfl, by omega⟩
  rw [hoff] at h
  rw [step_write (by omega) h, State.hostWrite_limb (s := { s with inputs := rest }) hr r _ w (by decide) hwf,
    State.writeWord, State.unlessBusy_of_idle (s := { s with inputs := rest }) hb, mergeBytes_eight]
  rfl

theorem run_limb_writes (hr : s.rst = false) (hb : s.status.busy = false) (r : Reg) (v : Nat) {k : Nat} (hk : k ≤ 8)
    (rest : List Input) :
    Host.Core.run Sys2Proof.core k { s with
        inputs := (List.range k).map (fun l => HostOp.wr (HostOp.limbOffset r l) (limb l v)) ++ rest } =
      .next { s with inputs := rest, regs := s.regs.set r.val (loadLimbs (s.reg r) v k) } := by
  induction k generalizing rest with
  | zero =>
    have same : s.regs.set r.val (loadLimbs (s.reg r) v 0) = s.regs := Vector.set_getElem_self _
    rw [same]
    rfl
  | succ k ih =>
    have last : step { s with
          inputs := HostOp.wr (HostOp.limbOffset r k) (limb k v) :: rest
          regs := s.regs.set r.val (loadLimbs (s.reg r) v k) } =
        .next { s with inputs := rest, regs := s.regs.set r.val (loadLimbs (s.reg r) v (k + 1)) } := by
      refine (step_limb_write (s := { s with
        inputs := _, regs := s.regs.set r.val (loadLimbs (s.reg r) v k) }) hr hb r hk (limb k v) rfl).trans ?_
      simp [State.reg, loadLimbs]
    rw [List.range_succ, List.map_append, List.append_assoc, run_add_of_run (ih (by omega) _)]
    exact run_one_of_step last

/-! ### EXEC (R88) -/

theorem step_exec_write (hr : s.rst = false) (hb : s.status.busy = false) (he : s.status.err = false) (i : Instr)
    {rest : List Input} (h : s.inputs = HostOp.wr 0x018 (encode i).toNat :: rest) :
    step s = .next { s.accept (encode i) with inputs := rest } := by
  rw [step_write (by decide) h, State.hostWrite_cmd (s := { s with inputs := rest }) hr (.inr rfl),
    State.offer_accepted (s := { s with inputs := rest }) hb he, BitVec.ofNat_toNat, BitVec.setWidth_eq]
  rfl

/-- Polls of STATUS change nothing but the read port. -/
theorem run_polls (polls : Nat) (rest : List Input) (h : s.inputs = List.replicate polls (HostOp.rd 0x010) ++ rest) :
    ∃ d, Host.Core.run Sys2Proof.core polls s = .next { s with inputs := rest, readData := d } := by
  induction polls generalizing s with
  | zero =>
    subst h
    exact ⟨s.readData, rfl⟩
  | succ polls ih =>
    obtain ⟨d, hd⟩ := ih (s := { s with
      inputs := List.replicate polls (HostOp.rd 0x010) ++ rest, readData := s.readBytes 0x010 8 }) rfl
    exact ⟨d, (run_succ_of_step (step_read (by decide) h) polls).trans hd⟩

theorem getLsbD_zero_statusWord (t : Status) : t.word.getLsbD 0 = t.busy := by
  simp [Status.word, bitAt]

/-- A read of STATUS shows BUSY as bit 0 of its first byte. -/
theorem State.readBytes_status (hr : s.rst = false) : (s.readBytes 0x010 8).length = 8 ∧
    ((s.readBytes 0x010 8).head?).map (fun b => b.getLsbD 0) = some s.status.busy := by
  rw [State.readBytes_of_wellFormed hr (.inl ⟨rfl, rfl⟩)]
  have bit : (s.windowWord (regionOf 0x010)).getLsbD 0 = s.status.busy := getLsbD_zero_statusWord s.status
  exact ⟨by simp, by simpa [List.head?_range] using bit⟩

/-- The MAU's turn completes the command of an idle MAU's acceptance, whatever was read meanwhile. -/
theorem step_turn_of_accept (hr : s.rst = false) (hf : s.inflight = none) (i : Instr) (rest : List Input)
    (d : List Byte) : ∃ u, exec i s = .next u ∧
      step { s.accept (encode i) with inputs := .mau :: rest, readData := d } =
        .next { u with cmdr := encode i, inputs := rest, readData := d } := by
  obtain ⟨u, hidle, haccepted⟩ := exec_accept hf i rest d
  have legal : decodeWord (s.snapshot (encode i)).word = .ok i := by rw [State.snapshot_word, decodeWord_encode]
  have turn := (stepRunsTheDecodedCommand { s.accept (encode i) with inputs := .mau :: rest, readData := d } _ i
    hr rfl legal).2 rest rfl
  exact ⟨u, hidle, turn.trans haccepted⟩

end

end Sys2Proof.Machine

namespace Sys2Proof

open Sys2Proof.Machine

/-- Settles O27: after eight limb writes every bit of the register is the value's. -/
theorem ldrLoadsTheRegister : Obligations.LdrLoadsTheRegister := by
  intro s r v rest hr hb _
  rw [← loadLimbs_eight (s.reg r) v]
  exact run_limb_writes hr hb r v (Nat.le_refl 8) rest

/-- Settles O28: acceptance, the polls, the MAU's turn and the last poll, one run after the other. -/
theorem execSequenceRunsTheCommand : Obligations.ExecSequenceRunsTheCommand := by
  intro s i polls rest hr hb he _ hf
  have accepted := step_exec_write (s := { s with inputs := HostOp.run polls i ++ rest }) hr hb he i rfl
  obtain ⟨d, polled⟩ := run_polls (s := { s.accept (encode i) with inputs := HostOp.wait polls ++ rest }) polls
    (.mau :: HostOp.rd 0x010 :: rest) (List.append_assoc ..)
  obtain ⟨u, hu, turned⟩ := step_turn_of_accept hr hf i (HostOp.rd 0x010 :: rest) d
  have hset := settled_of_exec hu
  have read := step_read (s := { u with cmdr := encode i, inputs := HostOp.rd 0x010 :: rest, readData := d })
    (by decide) rfl
  obtain ⟨hlen, hbusy⟩ := State.readBytes_status
    (s := { u with cmdr := encode i, inputs := HostOp.rd 0x010 :: rest, readData := d }) (hset.rst.trans hr)
  have whole := (run_succ_of_step accepted (polls + 2)).trans ((run_add_of_run polled 2).trans
    ((run_succ_of_step turned 1).trans (run_one_of_step read)))
  exact ⟨_, u, whole, hu, rfl, rfl, rfl, rfl, rfl, rfl, hset.inflight, rfl, hlen,
    hbusy.trans (congrArg some hset.busy)⟩

end Sys2Proof
end

section
/-! PROOF. The digit count (40_unsigned.md R101) and the two division paths of R115 (O39): both paths find the quotient
digit by digit, and a digit of Algorithm D is the digit of the quotient. -/

set_option exponentiation.threshold 600

namespace Sys2Proof.Machine

/-! ### Limbs in the radix 2^64 -/

theorem limbBase_pow (k : Nat) : limbBase ^ k = 2 ^ (64 * k) := (pow_mul 2 64 k).symm

theorem limbBase_pow_pos (k : Nat) : 0 < limbBase ^ k := Nat.pow_pos (by decide)

theorem limb_eq (l v : Nat) : limb l v = v / limbBase ^ l % limbBase := by
  rw [limbBase_pow]; rfl

theorem two_pow_bits (W : Width) : 2 ^ W.bits = limbBase ^ W.limbs := by
  rw [limbBase_pow]; cases W <;> rfl

/-- The top limb of a value of n + 1 limbs is what the limbs below it leave. -/
theorem limb_of_lt {n v : Nat} (h : v < limbBase ^ (n + 1)) : limb n v = v / limbBase ^ n := by
  rw [limb_eq, Nat.mod_eq_of_lt (Nat.div_lt_of_lt_mul (by rwa [← pow_succ]))]

/-! ### The digit count (R101) -/

theorem lt_pow_digitsFrom {n v : Nat} (h : v < limbBase ^ n) : v < limbBase ^ digitsFrom n v := by
  induction n with
  | zero => exact h.trans (by simp [digitsFrom, limbBase])
  | succ n ih =>
    rw [digitsFrom_succ]
    split
    · exact h
    · next hz =>
      have h0 : v / limbBase ^ n = 0 := (limb_of_lt h).symm.trans (not_not.mp hz)
      exact ih ((Nat.div_eq_zero_iff.mp h0).resolve_left (limbBase_pow_pos n).ne')

theorem pow_le_of_digitsFrom {n v : Nat} (h : digitsFrom n v ≠ 1) : limbBase ^ (digitsFrom n v - 1) ≤ v := by
  induction n with
  | zero => exact absurd rfl h
  | succ n ih =>
    rw [digitsFrom_succ] at h ⊢
    split
    · next hl =>
      refine not_lt.mp fun hlt => hl ?_
      rw [limb_eq, Nat.div_eq_of_lt (show v < limbBase ^ n from hlt), Nat.zero_mod]
    · next hl => exact ih (by rwa [if_neg hl] at h)

theorem lt_pow_digits {W : Width} {v : Nat} (h : v < 2 ^ W.bits) : v < limbBase ^ digits W v :=
  lt_pow_digitsFrom (two_pow_bits W ▸ h)

theorem pow_le_of_digits {W : Width} {v : Nat} (h : digits W v ≠ 1) : limbBase ^ (digits W v - 1) ≤ v :=
  pow_le_of_digitsFrom h

theorem digits_range (W : Width) (v : Nat) : 1 ≤ digits W v ∧ digits W v ≤ W.limbs :=
  digitsFrom_le _ v (by cases W <;> decide)

/-! ### Short division (R115) -/

/-- Division, leading digit first: the remainder of the leading part is carried over to the rest. -/
theorem mul_add_div_carry {d : Nat} (hd : 0 < d) (c P x : Nat) :
    (c * P + x) / d = c / d * P + (c % d * P + x) / d := by
  have h : c * P + x = d * (c / d * P) + (c % d * P + x) :=
    calc c * P + x = (d * (c / d) + c % d) * P + x := by rw [Nat.div_add_mod]
      _ = _ := by ring
  rw [h, Nat.mul_add_div hd]

theorem shortDivideFrom_succ (a d n rem q : Nat) : shortDivideFrom a d (n + 1) rem q =
    shortDivideFrom a d n ((rem * limbBase + limb n a) % d) (q * limbBase + (rem * limbBase + limb n a) / d) := by
  conv_lhs => unfold shortDivideFrom

/-- From limb n - 1 down, the remainder so far and the limbs that are left make up the rest of the dividend. -/
theorem shortDivideFrom_eq (a : Nat) {d : Nat} (n : Nat) {rem : Nat} (q : Nat) (h : rem < d) :
    shortDivideFrom a d n rem q = q * limbBase ^ n + (rem * limbBase ^ n + a % limbBase ^ n) / d := by
  induction n generalizing rem q with
  | zero =>
    show q = _
    simp [Nat.mod_one, Nat.div_eq_of_lt h]
  | succ n ih =>
    have hd : 0 < d := Nat.zero_lt_of_lt h
    have hsplit : rem * limbBase ^ (n + 1) + a % limbBase ^ (n + 1) =
        (rem * limbBase + limb n a) * limbBase ^ n + a % limbBase ^ n := by
      rw [Nat.mod_pow_succ, ← limb_eq]; ring
    rw [shortDivideFrom_succ, ih _ (Nat.mod_lt _ hd), hsplit, mul_add_div_carry hd (rem * limbBase + limb n a)]
    ring

/-- Short division of the limbs below a leading part that is less than the divisor. -/
theorem shortDivideFrom_leading (u : Nat) {d n : Nat} (h : u / limbBase ^ n < d) :
    shortDivideFrom u d n (u / limbBase ^ n) 0 = u / d := by
  rw [shortDivideFrom_eq u n 0 h, Nat.zero_mul, Nat.zero_add, Nat.div_add_mod']

theorem shortDivide_eq {W : Width} {a d : Nat} (ha : a < 2 ^ W.bits) (hd : 0 < d) : shortDivide W a d = a / d := by
  have h0 : a / limbBase ^ W.limbs = 0 := Nat.div_eq_of_lt (two_pow_bits W ▸ ha)
  have := shortDivideFrom_leading a (d := d) (n := W.limbs) (by rwa [h0])
  rwa [h0] at this

/-! ### One quotient digit of Algorithm D

`top` and `u3` are the leading limbs of the dividend `cur`, `v1` and `v2` those of the divisor `v`, and `D` the weight
of the limbs below them. An estimate `q` comes with its remainder r: `q * v1 + r = top`. -/

theorem correctDigit_succ (v1 v2 u3 k q r : Nat) : correctDigit v1 v2 u3 (k + 1) q r =
    if (limbBase ≤ q ∨ r * limbBase + u3 < q * v2) ∧ r < limbBase then correctDigit v1 v2 u3 k (q - 1) (r + v1)
    else q := rfl

theorem correctDigit_le (v1 v2 u3 k q r : Nat) : correctDigit v1 v2 u3 k q r ≤ q := by
  induction k generalizing q r with
  | zero => exact le_rfl
  | succ k ih =>
    rw [correctDigit_succ]
    split
    · exact (ih _ _).trans (Nat.sub_le q 1)
    · exact le_rfl

section
variable {D v v1 v2 cur top u3 q r : Nat}

/-- The test that leads to a correction by the second limb only finds estimates that are too large. -/
theorem lt_mul_of_test (hv : (v1 * limbBase + v2) * D ≤ v) (hcur : cur < (top * limbBase + u3 + 1) * D)
    (hr : q * v1 + r = top) (ht : r * limbBase + u3 < q * v2) : cur < q * v := by
  have h : top * limbBase + u3 + 1 ≤ q * (v1 * limbBase + v2) := by rw [← hr]; linarith
  calc cur < (top * limbBase + u3 + 1) * D := hcur
    _ ≤ q * (v1 * limbBase + v2) * D := Nat.mul_le_mul_right D h
    _ ≤ q * v := by rw [Nat.mul_assoc]; exact Nat.mul_le_mul_left q hv

/-- No correction goes below the quotient's digit. -/
theorem div_le_correctDigit (hv : (v1 * limbBase + v2) * D ≤ v) (hcur : cur < (top * limbBase + u3 + 1) * D)
    (hQ : cur / v < limbBase) (k : Nat) (hr : q * v1 + r = top) (hq : cur / v ≤ q) :
    cur / v ≤ correctDigit v1 v2 u3 k q r := by
  induction k generalizing q r with
  | zero => exact hq
  | succ k ih =>
    rw [correctDigit_succ]
    split
    · next ht =>
      have hlt : cur / v < q := by
        rcases ht.1 with hb | ht2
        · exact hQ.trans_le hb
        · exact Nat.div_lt_of_lt_mul (Nat.mul_comm v q ▸ lt_mul_of_test hv hcur hr ht2)
      obtain ⟨q', rfl⟩ : ∃ q', q = q' + 1 := Nat.exists_eq_add_one.mpr (Nat.zero_lt_of_lt hlt)
      exact ih (by rw [← hr, Nat.add_sub_cancel]; ring) (Nat.le_sub_one_of_lt hlt)
    · exact hq

/-- An estimate that passes the test is too large by one at most. -/
theorem le_succ_div_of_not_test (hv : v < (v1 * limbBase + v2 + 1) * D) (hcur : (top * limbBase + u3) * D ≤ cur)
    (hD : D * limbBase ≤ v) (hv0 : 0 < v) (hr : q * v1 + r = top) (hq : q < limbBase)
    (ht : q * v2 ≤ r * limbBase + u3) : q ≤ cur / v + 1 := by
  have h : q * (v1 * limbBase + v2) ≤ top * limbBase + u3 := by rw [← hr]; linarith
  have hmul : q * v ≤ cur + v :=
    calc q * v ≤ q * ((v1 * limbBase + v2 + 1) * D) := Nat.mul_le_mul_left q hv.le
      _ = q * (v1 * limbBase + v2) * D + q * D := by ring
      _ ≤ (top * limbBase + u3) * D + D * limbBase :=
        Nat.add_le_add (Nat.mul_le_mul_right D h) (Nat.mul_comm q D ▸ Nat.mul_le_mul_left D hq.le)
      _ ≤ cur + v := Nat.add_le_add hcur hD
  rw [← Nat.add_div_right _ hv0]
  exact (Nat.le_div_iff_mul_le hv0).mpr hmul

/-- With the leading limb of the divisor at least half the radix, the first estimate is too large by two at most. -/
theorem estimate_le (hv : v < (v1 + 1) * (D * limbBase)) (hcur : top * (D * limbBase) ≤ cur) (hv0 : 0 < v)
    (htop : top < (v1 + 1) * limbBase) (hhalf : limbBase ≤ 2 * v1) : top / v1 ≤ cur / v + 2 := by
  have hq : top / v1 ≤ 2 * v1 + 2 := by
    refine (Nat.div_le_div_right htop.le).trans (Nat.div_le_of_le_mul ?_)
    calc (v1 + 1) * limbBase ≤ (v1 + 1) * (2 * v1) := Nat.mul_le_mul_left _ hhalf
      _ = v1 * (2 * v1 + 2) := by ring
  rw [← Nat.sub_le_iff_le_add, Nat.le_div_iff_mul_le hv0]
  have hsmall : (top / v1 - 2) * (v1 + 1) ≤ top := by
    refine le_trans ?_ (Nat.div_mul_le_self top v1)
    generalize top / v1 = q at hq
    rcases Nat.le_total q 2 with h | h
    · simp [Nat.sub_eq_zero_of_le h]
    · obtain ⟨q', rfl⟩ := Nat.exists_eq_add_of_le' h
      rw [Nat.add_sub_cancel]
      linarith
  calc (top / v1 - 2) * v ≤ (top / v1 - 2) * ((v1 + 1) * (D * limbBase)) := Nat.mul_le_mul_left _ hv.le
    _ = (top / v1 - 2) * (v1 + 1) * (D * limbBase) := by ring
    _ ≤ top * (D * limbBase) := Nat.mul_le_mul_right _ hsmall
    _ ≤ cur := hcur

end

/-- A divisor of n limbs after normalisation: n limbs, the leading one at least half the radix. -/
structure Normalised (n v : Nat) : Prop where
  half_le : 2 ^ 63 * limbBase ^ (n - 1) ≤ v
  lt : v < limbBase ^ n

section
variable {m v cur : Nat}

theorem Normalised.pos (h : Normalised (m + 2) v) : 0 < v :=
  (Nat.mul_pos (by decide) (limbBase_pow_pos (m + 1))).trans_le h.half_le

theorem Normalised.limbBase_le_leading (h : Normalised (m + 2) v) : limbBase ≤ 2 * (v / limbBase ^ (m + 1)) :=
  Nat.mul_le_mul_left 2 ((Nat.le_div_iff_mul_le (limbBase_pow_pos (m + 1))).mpr h.half_le)

theorem Normalised.leading_pos (h : Normalised (m + 2) v) : 0 < v / limbBase ^ (m + 1) :=
  Nat.div_pos ((Nat.le_mul_of_pos_left _ (by decide)).trans h.half_le) (limbBase_pow_pos (m + 1))

theorem Normalised.leading_lt (h : Normalised (m + 2) v) : v / limbBase ^ (m + 1) < limbBase :=
  Nat.div_lt_of_lt_mul (by rw [← pow_succ]; exact h.lt)

theorem lt_succ_div_mul (x : Nat) {P : Nat} (hP : 0 < P) : x < (x / P + 1) * P :=
  Nat.mul_comm P _ ▸ Nat.lt_mul_div_succ x hP

/-- The two leading limbs together. -/
theorem leading_limbs (m x : Nat) :
    x / limbBase ^ (m + 1) * limbBase + x / limbBase ^ m % limbBase = x / limbBase ^ m := by
  rw [pow_succ, ← Nat.div_div_eq_div_mul, Nat.div_add_mod']

/-- The corrected estimate of `quotientDigit`, for a divisor of m + 2 limbs. -/
def correctedEstimate (m v cur : Nat) : Nat :=
  correctDigit (v / limbBase ^ (m + 1)) (v / limbBase ^ m % limbBase) (cur / limbBase ^ m % limbBase) 2
    (cur / limbBase ^ (m + 1) / (v / limbBase ^ (m + 1))) (cur / limbBase ^ (m + 1) % (v / limbBase ^ (m + 1)))

theorem quotientDigit_eq (m v cur : Nat) : quotientDigit (m + 2) v cur =
    if cur < correctedEstimate m v cur * v then correctedEstimate m v cur - 1 else correctedEstimate m v cur := rfl

theorem estimate_le_of_normalised (h : Normalised (m + 2) v) (hcur : cur < v * limbBase) :
    cur / limbBase ^ (m + 1) / (v / limbBase ^ (m + 1)) ≤ cur / v + 2 := by
  have hv := lt_succ_div_mul v (limbBase_pow_pos (m + 1))
  have hc := Nat.div_mul_le_self cur (limbBase ^ (m + 1))
  have htop : cur / limbBase ^ (m + 1) < (v / limbBase ^ (m + 1) + 1) * limbBase := by
    refine Nat.div_lt_of_lt_mul (hcur.trans ?_)
    calc v * limbBase < (v / limbBase ^ (m + 1) + 1) * limbBase ^ (m + 1) * limbBase :=
        Nat.mul_lt_mul_of_pos_right hv (by decide)
      _ = _ := by ring
  rw [pow_succ] at hv hc
  exact estimate_le hv hc h.pos htop h.limbBase_le_leading

theorem div_le_correctedEstimate (h : Normalised (m + 2) v) (hcur : cur < v * limbBase) :
    cur / v ≤ correctedEstimate m v cur := by
  refine div_le_correctDigit (D := limbBase ^ m) ?_ ?_ (Nat.div_lt_of_lt_mul hcur) 2 (Nat.div_add_mod' _ _) ?_
  · rw [leading_limbs]; exact Nat.div_mul_le_self ..
  · rw [leading_limbs]; exact lt_succ_div_mul _ (limbBase_pow_pos m)
  · rw [Nat.le_div_iff_mul_le h.leading_pos, Nat.le_div_iff_mul_le (limbBase_pow_pos _), Nat.mul_assoc]
    exact (Nat.mul_le_mul_left _ (Nat.div_mul_le_self ..)).trans (Nat.div_mul_le_self ..)

theorem correctedEstimate_le (h : Normalised (m + 2) v) (hcur : cur < v * limbBase) :
    correctedEstimate m v cur ≤ cur / v + 1 := by
  have hest := estimate_le_of_normalised h hcur
  unfold correctedEstimate
  rw [correctDigit_succ]
  split
  · exact (correctDigit_le ..).trans (Nat.sub_le_iff_le_add.mpr hest)
  · next ht =>
    have hr := (Nat.mod_lt (cur / limbBase ^ (m + 1)) h.leading_pos).trans h.leading_lt
    rw [and_iff_left hr, not_or, not_le, not_lt] at ht
    obtain ⟨hq, ht2⟩ := ht
    refine le_succ_div_of_not_test (D := limbBase ^ m) ?_ ?_ ?_ h.pos (Nat.div_add_mod' _ _) hq ht2
    · rw [leading_limbs]; exact lt_succ_div_mul _ (limbBase_pow_pos m)
    · rw [leading_limbs]; exact Nat.div_mul_le_self ..
    · rw [← pow_succ]; exact (Nat.le_mul_of_pos_left _ (by decide)).trans h.half_le

/-- The digit found by Algorithm D is the quotient's. -/
theorem quotientDigit_eq_div (h : Normalised (m + 2) v) (hcur : cur < v * limbBase) :
    quotientDigit (m + 2) v cur = cur / v := by
  have hlow := div_le_correctedEstimate h hcur
  have hhigh := correctedEstimate_le h hcur
  have htest : cur < correctedEstimate m v cur * v ↔ cur / v < correctedEstimate m v cur :=
    (Nat.div_lt_iff_lt_mul h.pos).symm
  rw [quotientDigit_eq]
  split_ifs with hc
  · exact Nat.sub_eq_of_eq_add (Nat.le_antisymm hhigh (htest.mp hc))
  · exact Nat.le_antisymm (not_lt.mp (mt htest.mpr hc)) hlow

end

/-! ### Algorithm D (R115) -/

theorem algorithmDFrom_succ (n u v j rem q : Nat) : algorithmDFrom n u v (j + 1) rem q =
    algorithmDFrom n u v j (rem * limbBase + limb j u - quotientDigit n v (rem * limbBase + limb j u) * v)
      (q * limbBase + quotientDigit n v (rem * limbBase + limb j u)) := by
  conv_lhs => unfold algorithmDFrom

theorem limb_lt (l v : Nat) : limb l v < limbBase := Nat.mod_lt _ (by decide)

/-- With the right digit at each step Algorithm D is short division with a divisor of more limbs. -/
theorem algorithmDFrom_eq_shortDivideFrom {m v : Nat} (h : Normalised (m + 2) v) (u j : Nat) {rem : Nat} (q : Nat)
    (hrem : rem < v) : algorithmDFrom (m + 2) u v j rem q = shortDivideFrom u v j rem q := by
  induction j generalizing rem q with
  | zero => rfl
  | succ j ih =>
    have hcur : rem * limbBase + limb j u < v * limbBase :=
      calc rem * limbBase + limb j u < rem * limbBase + limbBase := Nat.add_lt_add_left (limb_lt j u) _
        _ = (rem + 1) * limbBase := (Nat.succ_mul ..).symm
        _ ≤ v * limbBase := Nat.mul_le_mul_right _ hrem
    have hmod (c : Nat) : c - c / v * v = c % v := by rw [Nat.mul_comm, Nat.mod_eq_sub]
    rw [algorithmDFrom_succ, quotientDigit_eq_div h hcur, hmod, ih _ (Nat.mod_lt _ h.pos), shortDivideFrom_succ]

/-- The shift of `normalShift` brings a nonzero limb to at least 2^63 and loses no bit of it. -/
theorem shifted_limb {L : Nat} (h0 : L ≠ 0) (hL : L < limbBase) :
    2 ^ 63 ≤ L * 2 ^ (63 - L.log2) ∧ (L + 1) * 2 ^ (63 - L.log2) ≤ limbBase := by
  have hlog : L.log2 < 64 := (Nat.log2_lt h0).mpr hL
  have hsh : L.log2 + (63 - L.log2) = 63 := by omega
  generalize 63 - L.log2 = sh at hsh
  constructor
  · rw [← hsh, pow_add]
    exact Nat.mul_le_mul_right _ (Nat.log2_self_le h0)
  · show _ ≤ 2 ^ (63 + 1)
    rw [← hsh, Nat.add_right_comm, pow_add]
    exact Nat.mul_le_mul_right _ Nat.lt_log2_self

theorem normalised_shift {m b : Nat} (hlow : limbBase ^ (m + 1) ≤ b) (hhigh : b < limbBase ^ (m + 2)) :
    Normalised (m + 2) (b * 2 ^ normalShift (m + 2) b) := by
  have hl : limb (m + 1) b = b / limbBase ^ (m + 1) := limb_of_lt hhigh
  have hl0 : limb (m + 1) b ≠ 0 := hl ▸ (Nat.div_pos hlow (limbBase_pow_pos _)).ne'
  obtain ⟨h63, h64⟩ : 2 ^ 63 ≤ limb (m + 1) b * 2 ^ normalShift (m + 2) b ∧
    (limb (m + 1) b + 1) * 2 ^ normalShift (m + 2) b ≤ limbBase := shifted_limb hl0 (limb_lt (m + 1) b)
  generalize normalShift (m + 2) b = sh at h63 h64
  constructor
  · calc 2 ^ 63 * limbBase ^ (m + 1) ≤ limb (m + 1) b * 2 ^ sh * limbBase ^ (m + 1) := Nat.mul_le_mul_right _ h63
      _ = b / limbBase ^ (m + 1) * limbBase ^ (m + 1) * 2 ^ sh := by rw [hl]; ring
      _ ≤ b * 2 ^ sh := Nat.mul_le_mul_right _ (Nat.div_mul_le_self ..)
  · calc b * 2 ^ sh < (limb (m + 1) b + 1) * limbBase ^ (m + 1) * 2 ^ sh :=
        Nat.mul_lt_mul_of_pos_right (hl ▸ lt_succ_div_mul b (limbBase_pow_pos _)) (Nat.two_pow_pos sh)
      _ = (limb (m + 1) b + 1) * 2 ^ sh * limbBase ^ (m + 1) := by ring
      _ ≤ limbBase * limbBase ^ (m + 1) := Nat.mul_le_mul_right _ h64
      _ = limbBase ^ (m + 2) := (pow_succ' limbBase (m + 1)).symm

/-- The limbs with which the loop of Algorithm D begins are below the divisor. -/
theorem leading_lt_divisor {a b n k : Nat} (sh : Nat) (ha : a < limbBase ^ (k + n)) (hb : limbBase ^ n ≤ b) :
    a * 2 ^ sh / limbBase ^ k < b * 2 ^ sh := by
  refine Nat.div_lt_of_lt_mul ?_
  calc a * 2 ^ sh < limbBase ^ (k + n) * 2 ^ sh := Nat.mul_lt_mul_of_pos_right ha (Nat.two_pow_pos sh)
    _ = limbBase ^ k * (limbBase ^ n * 2 ^ sh) := by ring
    _ ≤ limbBase ^ k * (b * 2 ^ sh) := Nat.mul_le_mul_left _ (Nat.mul_le_mul_right _ hb)

theorem algorithmD_eq {W : Width} {a b : Nat} (ha : a < 2 ^ W.bits) (hb : b < 2 ^ W.bits) (hd : digits W b ≠ 1) :
    algorithmD W a b = a / b := by
  have hlow := pow_le_of_digits hd
  have hhigh := lt_pow_digits hb
  obtain ⟨h1, hN⟩ := digits_range W b
  obtain ⟨m, hm⟩ : ∃ m, digits W b = m + 2 := ⟨digits W b - 2, by omega⟩
  rw [hm] at hlow hhigh hN
  have hW : W.limbs - (m + 2) + 1 + (m + 1) = W.limbs := by omega
  rw [two_pow_bits, ← hW] at ha
  have hrem := leading_lt_divisor (normalShift (m + 2) b) ha hlow
  simp only [algorithmD, hm]
  rw [algorithmDFrom_eq_shortDivideFrom (normalised_shift hlow hhigh) _ _ _ hrem, shortDivideFrom_leading _ hrem,
    Nat.mul_div_mul_right _ _ (Nat.two_pow_pos _)]

end Sys2Proof.Machine

namespace Sys2Proof

open Sys2Proof.Machine

/-- Settles O39: both paths divide digit by digit, with the digits of the quotient. -/
theorem bothDivisionPathsGiveTheQuotient : Obligations.BothDivisionPathsGiveTheQuotient := by
  intro W a b ha hb
  unfold divideByLimbs udiv
  split_ifs with h0 h1
  · rfl
  · rw [shortDivide_eq ha (Nat.pos_of_ne_zero h0)]
  · rw [algorithmD_eq ha hb h1]

end Sys2Proof
end

section
/-! PROOF. The unsigned family (40_unsigned.md): one rule for decoding a command's word, the views and readings as
arithmetic, one rule per shared form of the commands, and from them the obligations O33 to O38 and O40 to O43. -/

set_option exponentiation.threshold 600

namespace Sys2Proof.Machine

open Sys2Proof.Claim

/-! ### The word of a command (30_encoding.md R87) -/

/-- The word assembled from a command's fields, unused registers 0, decodes to it. -/
theorem decodes_of_fields {i : Instr} {op : Nat} (rd a b c : Reg)
    (h : i.fields = ⟨.ofNat 8 op, .ofFin rd, .ofFin a, .ofFin b, .ofFin c, 0#8⟩) (hop : op < 256 := by decide) :
    Decodes op rd a b c i := by
  refine decodeWord_assemble i op rd a b c hop rd.isLt a.isLt b.isLt c.isLt ?_
  simp only [ofNat_four_reg]
  rw [← h, decodeFields_fields]

/-! ### Views and readings (10_state.md R23, 40_unsigned.md R105 to R108) -/

theorem Operand.uW_w256 (o : Operand) : o.uW .w256 = lo256 o := o.u256_eq

theorem Operand.uW_w512 (o : Operand) : o.uW .w512 = all512 o := rfl

theorem lo256_lt (o : Operand) : lo256 o < 2 ^ 256 := Nat.mod_lt _ (Nat.two_pow_pos 256)

theorem two_pow_bits_le (W : Width) : 2 ^ W.bits ≤ 2 ^ 512 :=
  Nat.pow_le_pow_right (by decide) (by cases W <;> decide)

/-- The absolute value of a two's-complement reading, the most negative one included. -/
theorem natAbs_toInt {w : Nat} (x : BitVec (w + 1)) :
    x.toInt.natAbs = if x.toNat < 2 ^ w then x.toNat else 2 ^ (w + 1) - x.toNat := by
  have hx := x.isLt
  rw [BitVec.toInt_eq_toNat_cond]
  rw [pow_succ] at hx ⊢
  split_ifs <;> omega

theorem natAbs_immI64 (imm : BitVec 64) :
    (immI64 imm).natAbs = if imm.toNat < 2 ^ 63 then imm.toNat else 2 ^ 64 - imm.toNat := natAbs_toInt imm

theorem immU32_eq (imm : BitVec 64) : immU32 imm = imm.toNat % 2 ^ 32 := by
  simp [immU32, BitVec.extractLsb'_toNat]

theorem natAbs_immI32 (imm : BitVec 64) : (immI32 imm).natAbs =
    if imm.toNat % 2 ^ 32 < 2 ^ 31 then imm.toNat % 2 ^ 32 else 2 ^ 32 - imm.toNat % 2 ^ 32 := by
  rw [← immU32_eq]
  exact natAbs_toInt (imm.extractLsb' 0 32)

/-! ### The shared functions (R100, R101) -/

theorem usub_eq (W : Width) {a b : Nat} (ha : a < 2 ^ W.bits) (hb : b < 2 ^ W.bits) :
    usub W a b = (2 ^ W.bits + a - b) % 2 ^ W.bits := by
  rcases Nat.lt_or_ge a b with h | h
  · rw [usub_of_lt W h hb.le, Nat.mod_eq_of_lt (by omega)]
  · rw [usub_of_le W h ha, Nat.add_sub_assoc h, Nat.add_mod_left, Nat.mod_eq_of_lt (by omega)]

theorem udiv_zero (a : Nat) : udiv a 0 = .error .divideByZero := rfl

theorem udiv_of_ne_zero (a : Nat) {b : Nat} (h : b ≠ 0) : udiv a b = .ok (a / b) := if_neg h

theorem uadd_comm (W : Width) (a b : Nat) : uadd W a b = uadd W b a := by
  rw [uadd, uadd, Nat.add_comm]

theorem uadd_assoc (W : Width) (a b c : Nat) : uadd W (uadd W a b) c = uadd W a (uadd W b c) := by
  simp only [uadd, Nat.mod_add_mod, Nat.add_mod_mod, Nat.add_assoc]

theorem umul_comm (W : Width) (a b : Nat) : umul W a b = umul W b a := by
  rw [umul, umul, Nat.mul_comm]

theorem umul_assoc (W : Width) (a b c : Nat) : umul W (umul W a b) c = umul W a (umul W b c) := by
  simp only [umul, Nat.mod_mul_mod, Nat.mul_mod_mod, Nat.mul_assoc]

theorem usub_uadd_cancel (W : Width) {a b : Nat} (ha : a < 2 ^ W.bits) (hb : b < 2 ^ W.bits) :
    usub W (uadd W a b) b = a := by
  rcases Nat.lt_or_ge (a + b) (2 ^ W.bits) with h | h
  · rw [uadd_of_lt W h, usub_of_le W (Nat.le_add_left b a) h, Nat.add_sub_cancel]
  · have hwrap : uadd W a b = a + b - 2 ^ W.bits := by
      rw [uadd, Nat.mod_eq_sub_mod h, Nat.mod_eq_of_lt (by omega)]
    rw [hwrap, usub_of_lt W (by omega) hb.le]
    omega

theorem setOrder_ucmp (f : Flags) (a b : Nat) : f.setOrder (ucmp a b) = orderFlags f a b := by
  rcases Nat.lt_trichotomy a b with h | rfl | h
  · simp [Flags.setOrder, orderFlags, ucmp_lt_iff.mpr h, h, h.ne, h.not_gt]
  · simp [Flags.setOrder, orderFlags, ucmp_eq_iff.mpr rfl]
  · simp [Flags.setOrder, orderFlags, ucmp_gt_iff.mpr h, h, h.ne', h.not_gt]

/-! ### The shared forms of the commands -/

section
variable (s : State) (rd a b : Reg) (W : Width)

/-- The end of a command whose unsigned result may be an error. -/
theorem commitReg_map_ofUnsigned_ends {r : Except ErrorKind Nat} (hr : ∀ v, r = .ok v → v < 2 ^ 512) :
    ∃ t, s.commitReg rd (r.map .ofUnsigned) = .next t ∧ (∀ v, r = .ok v → WroteReg s t rd v true) ∧
      (∀ e, r = .error e → Raised s t e.code.toNat) := by
  cases r with
  | ok v =>
    obtain ⟨t, ht, w⟩ := unsignedResult_wrote rd v s (hr v rfl)
    exact ⟨t, ht, fun _ h => by cases h; exact w, nofun⟩
  | error e => exact ⟨_, rfl, nofun, fun _ h => by cases h; exact raised_raise s e⟩

/-- `unsignedResult_wrote` with the result given another form. -/
theorem unsignedResult_wrote_of_eq {v v' : Nat} (h : v = v') (hv : v' < 2 ^ 512) :
    ∃ t, unsignedResult rd v s = .next t ∧ WroteReg s t rd v' true :=
  h ▸ unsignedResult_wrote rd v' s hv

theorem unsignedBinary_wrote {f : Nat → Nat → Nat} (hf : ∀ x y, f x y < 2 ^ W.bits) :
    ∃ t, unsignedBinary W f rd a b s = .next t ∧ WroteReg s t rd (f ((s.src1 a).uW W) ((s.src2 b).uW W)) true :=
  unsignedResult_wrote rd _ s ((hf _ _).trans_le (two_pow_bits_le W))

theorem unsignedBinary_succeeded {f : Nat → Nat → Nat} (hf : ∀ x y, f x y < 2 ^ W.bits) :
    ∃ t, unsignedBinary W f rd a b s = .next t ∧ Succeeded s t := by
  obtain ⟨t, ht, w⟩ := unsignedBinary_wrote s rd a b W hf
  exact ⟨t, ht, w.toSucceeded⟩

theorem unsignedBinary_usub_wrote : ∃ t, unsignedBinary W (usub W) rd a b s = .next t ∧
    WroteReg s t rd ((2 ^ W.bits + (s.src1 a).uW W - (s.src2 b).uW W) % 2 ^ W.bits) true := by
  rw [← usub_eq W ((s.src1 a).uW_lt W) ((s.src2 b).uW_lt W)]
  exact unsignedBinary_wrote s rd a b W (usub_lt W)

theorem unsignedDivide_ends : ∃ t, unsignedDivide W rd a b s = .next t ∧
    ((s.src2 b).uW W ≠ 0 → WroteReg s t rd ((s.src1 a).uW W / (s.src2 b).uW W) true) ∧
    ((s.src2 b).uW W = 0 → Raised s t 1) := by
  have hlt : ∀ v, udiv ((s.src1 a).uW W) ((s.src2 b).uW W) = .ok v → v < 2 ^ 512 := by
    intro v hv
    rw [udiv] at hv
    split_ifs at hv
    cases hv
    exact (Nat.div_le_self _ _).trans_lt (((s.src1 a).uW_lt W).trans_le (two_pow_bits_le W))
  obtain ⟨t, ht, hok, herr⟩ := commitReg_map_ofUnsigned_ends s rd hlt
  exact ⟨t, ht, fun h => hok _ (udiv_of_ne_zero _ h), fun h => herr .divideByZero (by rw [h, udiv_zero])⟩

/-- UNARROW's end: `narrow_eq` tells the two cases apart. -/
theorem execUnarrow_ends : ∃ t, execUnarrow rd a s = .next t ∧
    ((s.src1 a).u512 < 2 ^ 256 → WroteReg s t rd (s.src1 a).u512 true) ∧
    (2 ^ 256 ≤ (s.src1 a).u512 → Raised s t 5) := by
  have hx := (s.src1 a).u512_lt
  have hlt : ∀ v, narrow (s.src1 a).u512 = .ok v → v < 2 ^ 512 := by
    intro v hv
    rw [narrow_eq hx] at hv
    split_ifs at hv
    cases hv
    exact hx
  obtain ⟨t, ht, hok, herr⟩ := commitReg_map_ofUnsigned_ends s rd hlt
  refine ⟨t, ht, fun h => hok _ ?_, fun h => herr .widthOverflow ?_⟩
  · rw [narrow_eq hx, if_pos h]
  · rw [narrow_eq hx, if_neg (not_lt.mpr h)]

theorem unsignedCompare_wrote : ∃ t, unsignedCompare W a b s = .next t ∧
    WroteFlags s t (orderFlags s.flags ((s.src1 a).uW W) ((s.src2 b).uW W)) := by
  rw [← setOrder_ucmp]
  exact commitFlags_wrote s _

theorem unsignedDigits_wrote : ∃ t d, unsignedDigits W rd a s = .next t ∧ WroteReg s t rd d true ∧
    1 ≤ d ∧ d ≤ W.limbs ∧
    (s.src1 a).uW W < 2 ^ (64 * d) ∧ (d ≠ 1 → 2 ^ (64 * (d - 1)) ≤ (s.src1 a).uW W) := by
  obtain ⟨hpos, hle⟩ := digits_range W ((s.src1 a).uW W)
  have hN : W.limbs ≤ 8 := by cases W <;> decide
  obtain ⟨t, ht, w⟩ := unsignedResult_wrote rd (digits W ((s.src1 a).uW W)) s (by omega)
  refine ⟨t, _, ht, w, hpos, hle, ?_, fun h => ?_⟩
  · rw [← limbBase_pow]; exact lt_pow_digits ((s.src1 a).uW_lt W)
  · rw [← limbBase_pow]; exact pow_le_of_digits h

end

end Sys2Proof.Machine

namespace Sys2Proof

open Sys2Proof.Machine Sys2Proof.Claim

/-- Settles O34: one end for each of the four readings of IMM, the same at both widths. -/
theorem nativeConstructorsWriteTheImmediate : Obligations.NativeConstructorsWriteTheImmediate := by
  intro s rd v w
  have hv : v < 2 ^ 64 := s.srcImm.isLt
  have hw : w < 2 ^ 32 := Nat.mod_lt _ (by decide)
  have u64 := unsignedResult_wrote rd v s (by omega)
  have i64 := unsignedResult_wrote_of_eq s rd (natAbs_immI64 s.srcImm) (by split <;> omega)
  have u32 := unsignedResult_wrote_of_eq s rd (immU32_eq s.srcImm) (by omega)
  have i32 := unsignedResult_wrote_of_eq s rd (natAbs_immI32 s.srcImm) (by split <;> omega)
  exact ⟨⟨decodes_of_fields rd 0 0 0 rfl, u64⟩, ⟨decodes_of_fields rd 0 0 0 rfl, u64⟩,
    ⟨decodes_of_fields rd 0 0 0 rfl, i64⟩, ⟨decodes_of_fields rd 0 0 0 rfl, i64⟩,
    ⟨decodes_of_fields rd 0 0 0 rfl, u32⟩, ⟨decodes_of_fields rd 0 0 0 rfl, u32⟩,
    ⟨decodes_of_fields rd 0 0 0 rfl, i32⟩, ⟨decodes_of_fields rd 0 0 0 rfl, i32⟩⟩

/-- Settles O35: UWIDEN commits the 256-bit view; UNARROW by its two ends. -/
theorem widthConversionsWidenAndNarrow : Obligations.WidthConversionsWidenAndNarrow := by
  intro s rd a
  have widened := unsignedResult_wrote_of_eq s rd (s.src1 a).u256_eq ((lo256_lt _).trans (by decide))
  exact ⟨⟨decodes_of_fields rd a 0 0 rfl, widened⟩, decodes_of_fields rd a 0 0 rfl, execUnarrow_ends s rd a⟩

/-- Settles O36: the W-bit views, added and subtracted modulo 2^W. -/
theorem unsignedAddAndSubtractWrap : Obligations.UnsignedAddAndSubtractWrap := by
  intro s rd a b
  simp only [← Operand.uW_w256, ← Operand.uW_w512]
  exact ⟨⟨decodes_of_fields rd a b 0 rfl, unsignedBinary_wrote s rd a b .w256 (uadd_lt .w256)⟩,
    ⟨decodes_of_fields rd a b 0 rfl, unsignedBinary_wrote s rd a b .w512 (uadd_lt .w512)⟩,
    ⟨decodes_of_fields rd a b 0 rfl, unsignedBinary_usub_wrote s rd a b .w256⟩,
    ⟨decodes_of_fields rd a b 0 rfl, unsignedBinary_usub_wrote s rd a b .w512⟩⟩

/-- Settles O37: the W-bit views, multiplied modulo 2^W. -/
theorem unsignedMultiplyTruncates : Obligations.UnsignedMultiplyTruncates := by
  intro s rd a b
  simp only [← Operand.uW_w256, ← Operand.uW_w512]
  exact ⟨⟨decodes_of_fields rd a b 0 rfl, unsignedBinary_wrote s rd a b .w256 (umul_lt .w256)⟩,
    ⟨decodes_of_fields rd a b 0 rfl, unsignedBinary_wrote s rd a b .w512 (umul_lt .w512)⟩⟩

/-- Settles O38: the two ends of a division, at each width. -/
theorem unsignedDivideGivesTheQuotient : Obligations.UnsignedDivideGivesTheQuotient := by
  intro s rd a b
  simp only [← Operand.uW_w256, ← Operand.uW_w512]
  exact ⟨⟨decodes_of_fields rd a b 0 rfl, unsignedDivide_ends s rd a b .w256⟩,
    ⟨decodes_of_fields rd a b 0 rfl, unsignedDivide_ends s rd a b .w512⟩⟩

/-- Settles O40: the order of the W-bit views, at each width. -/
theorem unsignedCompareSetsTheOrder : Obligations.UnsignedCompareSetsTheOrder := by
  intro s a b
  simp only [← Operand.uW_w256, ← Operand.uW_w512]
  exact ⟨⟨decodes_of_fields 0 a b 0 rfl, unsignedCompare_wrote s a b .w256⟩,
    ⟨decodes_of_fields 0 a b 0 rfl, unsignedCompare_wrote s a b .w512⟩⟩

/-- Settles O41: the digit count of the W-bit view, at each width. -/
theorem digitCountLocatesTheHighestLimb : Obligations.DigitCountLocatesTheHighestLimb := by
  intro s rd a
  simp only [← Operand.uW_w256, ← Operand.uW_w512]
  exact ⟨⟨decodes_of_fields rd a 0 0 rfl, unsignedDigits_wrote s rd a .w256⟩,
    ⟨decodes_of_fields rd a 0 0 rfl, unsignedDigits_wrote s rd a .w512⟩⟩

/-- Settles O43: the laws of the shared functions, one lemma each; the six commands end as total functions do. -/
theorem unsignedLaws : Obligations.UnsignedLaws := by
  refine ⟨fun s rd a b => ?_, fun W a b c ha hb _ => ⟨ucmp_lt_iff, ucmp_eq_iff, ucmp_gt_iff, uadd_comm W a b,
    umul_comm W a b, uadd_assoc W a b c, umul_assoc W a b c, usub_uadd_cancel W ha hb, uadd_lt W a b, usub_lt W a b,
    umul_lt W a b, fun h => ?_, fun h hab => ?_, fun h => ?_⟩⟩
  · simp only [List.forall_mem_cons]
    exact ⟨unsignedBinary_succeeded s rd a b .w256 (uadd_lt .w256),
      unsignedBinary_succeeded s rd a b .w512 (uadd_lt .w512), unsignedBinary_succeeded s rd a b .w256 (usub_lt .w256),
      unsignedBinary_succeeded s rd a b .w512 (usub_lt .w512), unsignedBinary_succeeded s rd a b .w256 (umul_lt .w256),
      unsignedBinary_succeeded s rd a b .w512 (umul_lt .w512), nofun⟩
  · exact ⟨_, udiv_of_ne_zero a h, (Nat.div_le_self a b).trans_lt ha⟩
  · rw [umul_of_lt W hab, udiv_of_ne_zero _ h, Nat.mul_div_cancel _ (Nat.pos_of_ne_zero h)]
  · exact (narrow_eq (h.trans (by decide))).trans (if_pos h)

/-- Settles O33: constants below 2^512. -/
theorem constantConstructorsWriteZeroOneMax : Obligations.ConstantConstructorsWriteZeroOneMax := by
  intro s rd
  have zero := unsignedResult_wrote rd 0 s (by decide)
  have one := unsignedResult_wrote rd 1 s (by decide)
  exact ⟨⟨decodes_of_fields rd 0 0 0 rfl, zero⟩, ⟨decodes_of_fields rd 0 0 0 rfl, zero⟩,
    ⟨decodes_of_fields rd 0 0 0 rfl, one⟩, ⟨decodes_of_fields rd 0 0 0 rfl, one⟩,
    ⟨decodes_of_fields rd 0 0 0 rfl, unsignedResult_wrote rd (2 ^ 256 - 1) s (by decide)⟩,
    ⟨decodes_of_fields rd 0 0 0 rfl, unsignedResult_wrote rd (2 ^ 512 - 1) s (by decide)⟩⟩

/-- Settles O42: bit 0 of the source is its value modulo 2; UPARSE is an error completion. -/
theorem parityAndParsing : Obligations.ParityAndParsing := by
  refine ⟨fun s a => ⟨decodes_of_fields 0 a 0 0 rfl, ?_⟩,
    fun s => ⟨decodes_of_fields 0 0 0 0 rfl, _, rfl, raised_raise s _⟩,
    fun s => ⟨decodes_of_fields 0 0 0 0 rfl, _, rfl, raised_raise s _⟩⟩
  have hodd : (s.src1 a).val.getLsbD 0 = decide (all512 (s.src1 a) % 2 = 1) := Nat.testBit_zero _
  rw [← hodd]
  exact commitFlags_wrote s _

end Sys2Proof
end

section
/-! PROOF. The signed family (41_signed.md): the functions of R140 to R145 as integer operations on the values of
R13, one rule per shared form of the commands, and from them the obligations O44 to O48. -/

set_option exponentiation.threshold 600

namespace Sys2Proof.Machine

open Sys2Proof.Claim

/-! ### The integer of a signed value (00_scope.md R13) -/

/-- The sign a tag stands for, so that a value is a product. -/
def tagSign (nn : Bool) : Int := if nn then 1 else -1

theorem Signed.val_eq_tagSign_mul (a : Signed) : a.val = tagSign a.nn * a.m := by
  obtain ⟨m, _ | _⟩ := a <;> simp [Signed.val, tagSign]

theorem tagSign_not (x : Bool) : tagSign (!x) = -tagSign x := by cases x <;> rfl

theorem tagSign_beq (x y : Bool) : tagSign (x == y) = tagSign x * tagSign y := by cases x <;> cases y <;> rfl

theorem tagSign_of_ne {x y : Bool} (h : x ≠ y) : tagSign y = -tagSign x := by
  rw [Bool.eq_not_of_ne h, tagSign_not, neg_neg]

theorem Signed.val_of_zero {a : Signed} (h : a.m = 0) : a.val = 0 := by
  simp [a.val_eq_tagSign_mul, h]

theorem Operand.val_signed (o : Operand) : o.signed.val = intOf o := rfl

theorem Operand.signed_m_lt (o : Operand) : o.signed.m < 2 ^ 512 := o.val.isLt

/-! ### Negation and comparison (R140, R141) -/

theorem val_sneg (a : Signed) : (sneg a).val = -a.val := by
  simp only [Signed.val_eq_tagSign_mul, sneg, tagSign_not, neg_mul]

theorem ucmp_eq_compare (a b : Nat) : ucmp a b = compare (a : Int) b := by
  rcases Nat.lt_trichotomy a b with h | rfl | h
  · rw [ucmp_lt_iff.mpr h, compare_lt_iff_lt.mpr (by omega)]
  · rw [ucmp_eq_iff.mpr rfl, compare_eq_iff_eq.mpr rfl]
  · rw [ucmp_gt_iff.mpr h, compare_gt_iff_gt.mpr (by omega)]

theorem compare_neg_neg (a b : Int) : compare (-a) (-b) = compare b a := by
  rcases lt_trichotomy a b with h | rfl | h
  · rw [compare_gt_iff_gt.mpr h, compare_gt_iff_gt.mpr (by omega)]
  · rw [compare_eq_iff_eq.mpr rfl, compare_eq_iff_eq.mpr rfl]
  · rw [compare_lt_iff_lt.mpr h, compare_lt_iff_lt.mpr (by omega)]

/-- R141's derived clause: in every case, zeros of either tag among them, scmp is the order of the integers. -/
theorem scmp_eq_compare (a b : Signed) : scmp a b = compare a.val b.val := by
  by_cases hz : a.m = 0 ∧ b.m = 0
  · rw [scmp, if_pos hz, Signed.val_of_zero hz.1, Signed.val_of_zero hz.2, compare_eq_iff_eq.mpr rfl]
  rw [scmp, if_neg hz]
  obtain ⟨m, x⟩ := a
  obtain ⟨n, y⟩ := b
  dsimp only at hz
  match x, y with
  | true, true => exact ucmp_eq_compare m n
  | false, false => exact (ucmp_eq_compare n m).trans (compare_neg_neg m n).symm
  | true, false => exact (compare_gt_iff_gt.mpr (show (m : Int) > -n by omega)).symm
  | false, true => exact (compare_lt_iff_lt.mpr (show -(m : Int) < n by omega)).symm

theorem setOrder_compare (f : Flags) (a b : Int) : f.setOrder (compare a b) = orderFlags f a b := by
  rcases lt_trichotomy a b with h | rfl | h
  · simp [Flags.setOrder, orderFlags, compare_lt_iff_lt.mpr h, h, h.ne, h.not_gt]
  · simp [Flags.setOrder, orderFlags]
  · simp [Flags.setOrder, orderFlags, compare_gt_iff_gt.mpr h, h, h.ne', h.not_gt]

/-! ### Sums and differences (R142, R143) -/

/-- The five cases of R142, which exclude each other. -/
theorem sadd_cases (a b : Signed) :
    (a.m = 0 ∧ sadd a b = b) ∨
    (a.m ≠ 0 ∧ b.m = 0 ∧ sadd a b = a) ∨
    (a.m ≠ 0 ∧ b.m ≠ 0 ∧ a.nn = b.nn ∧ sadd a b = ⟨uadd .w512 a.m b.m, a.nn⟩) ∨
    (a.m ≠ 0 ∧ b.m ≠ 0 ∧ a.nn ≠ b.nn ∧ b.m ≤ a.m ∧ sadd a b = ⟨a.m - b.m, a.nn⟩) ∨
    (a.m ≠ 0 ∧ b.m ≠ 0 ∧ a.nn ≠ b.nn ∧ a.m < b.m ∧ sadd a b = ⟨b.m - a.m, b.nn⟩) := by
  unfold sadd
  split_ifs with ha hb hs hle
  · exact .inl ⟨ha, rfl⟩
  · exact .inr (.inl ⟨ha, hb, rfl⟩)
  · exact .inr (.inr (.inl ⟨ha, hb, hs, rfl⟩))
  · exact .inr (.inr (.inr (.inl ⟨ha, hb, hs, hle, rfl⟩)))
  · exact .inr (.inr (.inr (.inr ⟨ha, hb, hs, not_le.mp hle, rfl⟩)))

theorem sadd_m_lt {a b : Signed} (ha : a.m < 2 ^ 512) (hb : b.m < 2 ^ 512) : (sadd a b).m < 2 ^ 512 := by
  obtain ⟨-, h⟩ | ⟨-, -, h⟩ | ⟨-, -, -, h⟩ | ⟨-, -, -, -, h⟩ | ⟨-, -, -, -, h⟩ := sadd_cases a b <;> rw [h]
  · exact hb
  · exact ha
  · exact uadd_lt .w512 a.m b.m
  · exact (Nat.sub_le a.m b.m).trans_lt ha
  · exact (Nat.sub_le b.m a.m).trans_lt hb

theorem signedSum_sadd (a b : Signed) : SignedSum a.m a.nn b.m b.nn (sadd a b).m (sadd a b).nn := by
  obtain ⟨ha, h⟩ | ⟨ha, hb, h⟩ | ⟨ha, hb, hs, h⟩ | ⟨ha, hb, hs, hle, h⟩ | ⟨ha, hb, hs, hlt, h⟩ := sadd_cases a b <;>
    rw [h]
  · simp [SignedSum, ha]
  · simp [SignedSum, ha, hb]
  · simp [SignedSum, ha, hb, hs, uadd, Width.bits]
  · simp [SignedSum, ha, hb, hs, hle.not_gt]
  · simp [SignedSum, ha, hb, hs, hlt.not_ge]

/-- The value of a sum whose magnitudes do not wrap (R155). -/
theorem val_sadd {a b : Signed} (hab : a.m + b.m < 2 ^ 512) : (sadd a b).val = a.val + b.val := by
  obtain ⟨ha, h⟩ | ⟨-, hb, h⟩ | ⟨-, -, hs, h⟩ | ⟨-, -, hs, hle, h⟩ | ⟨-, -, hs, hlt, h⟩ := sadd_cases a b <;> rw [h]
  · rw [Signed.val_of_zero ha, zero_add]
  · rw [Signed.val_of_zero hb, add_zero]
  · simp only [Signed.val_eq_tagSign_mul, ← hs, uadd_of_lt .w512 hab, Nat.cast_add, mul_add]
  · simp only [Signed.val_eq_tagSign_mul, tagSign_of_ne hs, Nat.cast_sub hle]
    ring
  · simp only [Signed.val_eq_tagSign_mul, tagSign_of_ne hs, Nat.cast_sub hlt.le]
    ring

theorem val_ssub {a b : Signed} (hab : a.m + b.m < 2 ^ 512) : (ssub a b).val = a.val - b.val := by
  have hsum : (sadd a (sneg b)).val = a.val + (sneg b).val := val_sadd hab
  rw [ssub, hsum, val_sneg, sub_eq_add_neg]

theorem scmp_sadd_comm {a b : Signed} (hab : a.m + b.m < 2 ^ 512) : scmp (sadd a b) (sadd b a) = .eq := by
  have hba : b.m + a.m < 2 ^ 512 := by omega
  rw [scmp_eq_compare, compare_eq_iff_eq, val_sadd hab, val_sadd hba, add_comm]

/-! ### Products and quotients (R144, R145) -/

theorem smul_comm_signed (a b : Signed) : smul a b = smul b a := by
  rw [smul, smul, umul_comm, Bool.beq_comm]

theorem val_smul {a b : Signed} (hab : a.m * b.m < 2 ^ 512) : (smul a b).val = a.val * b.val := by
  simp only [Signed.val_eq_tagSign_mul, smul, umul_of_lt .w512 hab, tagSign_beq, Nat.cast_mul]
  ring

theorem sdiv_of_zero (a : Signed) {b : Signed} (h : b.m = 0) : sdiv a b = .error .divideByZero := if_pos h

theorem sdiv_of_ne_zero (a : Signed) {b : Signed} (h : b.m ≠ 0) : sdiv a b = .ok ⟨a.m / b.m, a.nn == b.nn⟩ := if_neg h

/-- The floor of the magnitudes' quotient under the XNOR of the tags is truncation toward zero. -/
theorem val_quotient (a b : Signed) : (⟨a.m / b.m, a.nn == b.nn⟩ : Signed).val = a.val.tdiv b.val := by
  obtain ⟨m, x⟩ := a
  obtain ⟨n, y⟩ := b
  have key : ((m / n : Nat) : Int) = (m : Int).tdiv n := rfl
  match x, y with
  | true, true => exact key
  | true, false => exact (congrArg _ key).trans (Int.tdiv_neg ..).symm
  | false, true => exact (congrArg _ key).trans (Int.neg_tdiv ..).symm
  | false, false => exact key.trans (Int.neg_tdiv_neg ..).symm

/-! ### The reading of IMM (R153) -/

theorem immI64_nonneg_iff (imm : BitVec 64) : 0 ≤ immI64 imm ↔ imm.toNat < 2 ^ 63 := by
  rw [immI64, BitVec.toInt_eq_toNat_cond]
  split_ifs <;> omega

/-! ### The shared forms of the commands -/

section
variable (s : State) (rd : Reg)

/-- The end of a command with a signed result of a magnitude below 2^512. -/
theorem signedResult_wrote {a : Signed} (h : a.m < 2 ^ 512) :
    ∃ t, s.commitReg rd (.ok (.ofSigned a)) = .next t ∧ WroteReg s t rd a.m a.nn := by
  have := commitReg_ok s rd (.ofSigned a)
  rwa [Operand.ofSigned_toNat a h] at this

/-- The end of SADD, and of SSUB with its second operand negated. -/
theorem signedSum_ends {a b : Signed} (ha : a.m < 2 ^ 512) (hb : b.m < 2 ^ 512) :
    ∃ t m nn, s.commitReg rd (.ok (.ofSigned (sadd a b))) = .next t ∧ WroteReg s t rd m nn ∧
      SignedSum a.m a.nn b.m b.nn m nn := by
  obtain ⟨t, ht, w⟩ := signedResult_wrote s rd (sadd_m_lt ha hb)
  exact ⟨t, _, _, ht, w, signedSum_sadd a b⟩

theorem signedQuotient_ends {a b : Signed} (ha : a.m < 2 ^ 512) :
    ∃ t, s.commitReg rd ((sdiv a b).map .ofSigned) = .next t ∧
      (b.m ≠ 0 → WroteReg s t rd (a.m / b.m) (a.nn == b.nn)) ∧ (b.m = 0 → Raised s t 1) := by
  by_cases h : b.m = 0
  · rw [sdiv_of_zero a h]
    obtain ⟨t, ht, r⟩ := commitReg_error s rd .divideByZero
    exact ⟨t, ht, fun hne => absurd h hne, fun _ => r⟩
  · rw [sdiv_of_ne_zero a h]
    have hq : a.m / b.m < 2 ^ 512 := (Nat.div_le_self _ _).trans_lt ha
    obtain ⟨t, ht, w⟩ := signedResult_wrote s rd (a := ⟨a.m / b.m, a.nn == b.nn⟩) hq
    exact ⟨t, ht, fun _ => w, fun h0 => absurd h0 h⟩

end

end Sys2Proof.Machine

namespace Sys2Proof

open Sys2Proof.Machine Sys2Proof.Claim

/-- Settles O44: three signed results, SFROMI64's from the sign and the absolute value of IMM. -/
theorem signedConversions : Obligations.SignedConversions := by
  intro s rd a
  have hm := (s.src1 a).signed_m_lt
  have himm : (immI64 s.srcImm).natAbs < 2 ^ 512 := by
    have := s.srcImm.isLt
    rw [natAbs_immI64]
    split <;> omega
  refine ⟨⟨decodes_of_fields rd a 0 0 rfl, signedResult_wrote s rd (a := sneg _) hm⟩,
    ⟨decodes_of_fields rd a 0 0 rfl, unsignedResult_wrote rd _ s hm⟩, decodes_of_fields rd 0 0 0 rfl, ?_⟩
  rw [← natAbs_immI64, ← decide_eq_decide.mpr (immI64_nonneg_iff s.srcImm)]
  exact signedResult_wrote s rd (a := ⟨_, _⟩) himm

/-- Settles O45: scmp compares the integers. -/
theorem signedCompareIsTheIntegerOrder : Obligations.SignedCompareIsTheIntegerOrder := by
  intro s a b
  refine ⟨decodes_of_fields 0 a b 0 rfl, ?_⟩
  rw [← setOrder_compare, ← Operand.val_signed, ← Operand.val_signed, ← scmp_eq_compare]
  exact commitFlags_wrote s _

/-- Settles O46: one end for both, SSUB's second operand being negated first. -/
theorem signedAddAndSubtractFollowTheCases : Obligations.SignedAddAndSubtractFollowTheCases := by
  intro s rd a b
  have ha := (s.src1 a).signed_m_lt
  have hb := (s.src2 b).signed_m_lt
  exact ⟨⟨decodes_of_fields rd a b 0 rfl, signedSum_ends s rd ha hb⟩,
    ⟨decodes_of_fields rd a b 0 rfl, signedSum_ends s rd (b := sneg _) ha hb⟩⟩

/-- Settles O47: the wrapped product of the magnitudes; the two ends of a division. -/
theorem signedMultiplyAndDivide : Obligations.SignedMultiplyAndDivide := by
  intro s rd a b
  exact ⟨⟨decodes_of_fields rd a b 0 rfl, signedResult_wrote s rd (a := smul _ _) (umul_lt .w512 _ _)⟩,
    decodes_of_fields rd a b 0 rfl, signedQuotient_ends s rd (s.src1 a).signed_m_lt⟩

/-- Settles O48: magnitudes below 2^511 have a sum below 2^512. -/
theorem signedLaws : Obligations.SignedLaws := by
  intro a b ha hb
  have hab : a.m + b.m < 2 ^ 512 := by omega
  exact ⟨val_sadd hab, val_ssub hab, scmp_sadd_comm hab, val_smul, smul_comm_signed a b,
    fun h => ⟨_, sdiv_of_ne_zero a h, val_quotient a b⟩⟩

end Sys2Proof
end

section
/-! PROOF. The modular family (42_modular.md): one rule per shared form of the commands, the loop of modinv as the
extended Euclidean algorithm on integers, and from them the obligations O49 to O54. -/

set_option exponentiation.threshold 600

namespace Sys2Proof.Machine

open Sys2Proof.Claim

/-! ### Every result is a 512-bit value -/

theorem Operand.u256_eq_lo256 (o : Operand) : o.u256 = lo256 o := o.u256_eq

theorem narrow_ok_lt {v w : Nat} (hv : v < 2 ^ 512) (h : narrow v = .ok w) : w < 2 ^ 512 := by
  unfold narrow at h
  split_ifs at h
  cases h
  exact hv

section
variable {a b p v : Nat}

theorem clockAdd_ok_lt (h : clockAdd a b p = .ok v) : v < 2 ^ 512 := by
  refine narrow_ok_lt ?_ h
  split_ifs
  · exact usub_lt .w512 _ _
  · exact uadd_lt .w512 _ _

theorem clockSub_ok_lt (h : clockSub a b p = .ok v) : v < 2 ^ 512 := by
  refine narrow_ok_lt ?_ h
  split_ifs <;> exact usub_lt .w512 _ _

theorem clockMul_ok_lt (h : clockMul a b p = .ok v) : v < 2 ^ 512 := by
  unfold clockMul at h
  dsimp only at h
  split at h
  · split at h
    · exact narrow_ok_lt (usub_lt .w512 _ _) h
    · cases h
  · exact narrow_ok_lt (umul_lt .w512 _ _) h

theorem clockDiv_ok_lt (h : clockDiv a b p = .ok v) : v < 2 ^ 512 := by
  unfold clockDiv at h
  split at h
  · exact clockMul_ok_lt h
  · cases h

end

/-- The end of a command of shape DABM. -/
theorem modularTernary_ends {f : Nat → Nat → Nat → Except ErrorKind Nat}
    (hf : ∀ {x y z v}, f x y z = .ok v → v < 2 ^ 512) (s : State) (rd a b m : Reg) :
    ∃ t, modularTernary f rd a b m s = .next t ∧
      (∀ v, f (lo256 (s.src1 a)) (lo256 (s.src2 b)) (lo256 (s.src3 m)) = .ok v → WroteReg s t rd v true) ∧
      (∀ e, f (lo256 (s.src1 a)) (lo256 (s.src2 b)) (lo256 (s.src3 m)) = .error e → Raised s t e.code.toNat) := by
  simp only [modularTernary, Operand.u256_eq_lo256]
  exact commitReg_map_ofUnsigned_ends s rd fun _ => hf

/-! ### A turn of the loop on the integers (R164) -/

theorem Signed.natAbs_val (a : Signed) : a.val.natAbs = a.m := by
  obtain ⟨m, _ | _⟩ := a <;> simp [Signed.val]

theorem natAbs_tagSign_mul (e : Bool) (n : Nat) : (tagSign e * (n : Int)).natAbs = n := by
  cases e <;> simp [tagSign]

theorem natCast_mod_eq_sub (m n : Nat) : ((m % n : Nat) : Int) = m - (m / n : Nat) * n := by
  push_cast
  rw [Int.emod_def, mul_comm]

/-- A row of the loop is replaced by the row before it less k times itself; nothing wraps. -/
theorem val_ssub_smul {a c q : Signed} {k : Nat} (hq : q.val = k) (h : a.m + k * c.m < 2 ^ 512) :
    (ssub a (smul q c)).val = a.val - k * c.val := by
  have hqm : q.m = k := by rw [← q.natAbs_val, hq, Int.natAbs_natCast]
  have hprod : q.m * c.m < 2 ^ 512 := by rw [hqm]; omega
  have hm : (smul q c).m = k * c.m := by rw [← hqm]; exact umul_of_lt .w512 hprod
  rw [val_ssub (by rwa [hm]), val_smul hprod, hq]

/-- What holds of (t, nt, r, nr) before every turn: the remainders are the Euclidean ones of (p, b) and the
coefficients, whose signs alternate (`e` says whether nt's is positive), give them back modulo p. The weight bounds the
coefficients. -/
structure EuclidInv (b p : Nat) (e : Bool) (t nt r nr : Signed) : Prop where
  t_sign : t.val = tagSign (!e) * t.m
  nt_sign : nt.val = tagSign e * nt.m
  r_val : r.val = r.m
  nr_val : nr.val = nr.m
  t_congr : t.val * b ≡ r.m [ZMOD p]
  nt_congr : nt.val * b ≡ nr.m [ZMOD p]
  gcd_eq : Nat.gcd r.m nr.m = Nat.gcd p b
  weight : nt.m * r.m + t.m * nr.m = p
  t_le : t.m ≤ max p 1
  nt_le : nt.m ≤ max p 1
  r_lt : r.m < 2 ^ 256
  nr_lt : nr.m < 2 ^ 256

section
variable {b p : Nat} {e : Bool} {t nt r nr : Signed}

theorem euclidInv_start (hb : b < 2 ^ 256) (hp : p < 2 ^ 256) :
    EuclidInv b p true ⟨0, true⟩ ⟨1, true⟩ ⟨p, true⟩ ⟨b, true⟩ where
  t_sign := rfl
  nt_sign := rfl
  r_val := rfl
  nr_val := rfl
  t_congr := by simp [Signed.val, Int.ModEq]
  nt_congr := by simp [Signed.val]
  gcd_eq := rfl
  weight := by simp
  t_le := Nat.zero_le _
  nt_le := le_max_right _ _
  r_lt := hp
  nr_lt := hb

/-- The quotient of a turn. -/
theorem EuclidInv.quotient_val (h : EuclidInv b p e t nt r nr) :
    (⟨r.m / nr.m, r.nn == nr.nn⟩ : Signed).val = (r.m / nr.m : Nat) := by
  rw [val_quotient, h.r_val, h.nr_val]
  rfl

theorem EuclidInv.next_weight (h : EuclidInv b p e t nt r nr) :
    (t.m + r.m / nr.m * nt.m) * nr.m + nt.m * (r.m % nr.m) = p :=
  calc (t.m + r.m / nr.m * nt.m) * nr.m + nt.m * (r.m % nr.m)
      = nt.m * (r.m / nr.m * nr.m + r.m % nr.m) + t.m * nr.m := by ring
    _ = p := by rw [Nat.div_add_mod', h.weight]

/-- The weight bounds the next coefficient. -/
theorem EuclidInv.next_coeff_le (h : EuclidInv b p e t nt r nr) (h0 : nr.m ≠ 0) : t.m + r.m / nr.m * nt.m ≤ p :=
  (Nat.le_mul_of_pos_right _ (Nat.pos_of_ne_zero h0)).trans (h.next_weight ▸ Nat.le_add_right _ _)

section
variable (h : EuclidInv b p e t nt r nr) {q : Signed} (hq : q.val = (r.m / nr.m : Nat))
include h hq

/-- The next remainder is the Euclidean one. -/
theorem EuclidInv.val_next_rem : (ssub r (smul q nr)).val = (r.m % nr.m : Nat) := by
  have hle : r.m / nr.m * nr.m ≤ r.m := Nat.div_mul_le_self r.m nr.m
  have hlt := h.r_lt
  rw [val_ssub_smul hq (by omega), h.r_val, h.nr_val, natCast_mod_eq_sub]

theorem EuclidInv.next_rem_m : (ssub r (smul q nr)).m = r.m % nr.m := by
  rw [← Signed.natAbs_val, h.val_next_rem hq, Int.natAbs_natCast]

variable (h0 : nr.m ≠ 0) (hp : p < 2 ^ 256)
include h0 hp

theorem EuclidInv.val_next_coeff : (ssub t (smul q nt)).val = t.val - (r.m / nr.m : Nat) * nt.val := by
  have hle := h.next_coeff_le h0
  exact val_ssub_smul hq (by omega)

/-- The signs being opposite, the magnitudes add up. -/
theorem EuclidInv.next_coeff_sign :
    (ssub t (smul q nt)).val = tagSign (!e) * (t.m + r.m / nr.m * nt.m : Nat) := by
  rw [h.val_next_coeff hq h0 hp, h.t_sign, h.nt_sign, tagSign_not]
  push_cast
  ring

theorem EuclidInv.next_coeff_m : (ssub t (smul q nt)).m = t.m + r.m / nr.m * nt.m := by
  rw [← Signed.natAbs_val, h.next_coeff_sign hq h0 hp, natAbs_tagSign_mul]

/-- The next row is the difference of two rows, each true modulo p. -/
theorem EuclidInv.next_congr : (ssub t (smul q nt)).val * b ≡ (r.m % nr.m : Nat) [ZMOD p] := by
  rw [h.val_next_coeff hq h0 hp, natCast_mod_eq_sub, sub_mul, mul_assoc]
  exact h.t_congr.sub (h.nt_congr.mul_left _)

/-- Each turn keeps the invariant, the signs having changed their places. -/
theorem EuclidInv.turn : EuclidInv b p (!e) nt (ssub t (smul q nt)) nr (ssub r (smul q nr)) where
  t_sign := by rw [Bool.not_not, h.nt_sign]
  nt_sign := by rw [h.next_coeff_sign hq h0 hp, h.next_coeff_m hq h0 hp]
  r_val := h.nr_val
  nr_val := by rw [h.val_next_rem hq, h.next_rem_m hq]
  t_congr := h.nt_congr
  nt_congr := by rw [h.next_rem_m hq]; exact h.next_congr hq h0 hp
  gcd_eq := by rw [h.next_rem_m hq, ← h.gcd_eq, Nat.gcd_comm nr.m, ← Nat.gcd_rec, Nat.gcd_comm]
  weight := by rw [h.next_coeff_m hq h0 hp, h.next_rem_m hq, h.next_weight]
  t_le := h.nt_le
  nt_le := by rw [h.next_coeff_m hq h0 hp]; exact (h.next_coeff_le h0).trans (le_max_left p 1)
  r_lt := h.nr_lt
  nr_lt := by rw [h.next_rem_m hq]; exact (Nat.mod_lt _ (Nat.pos_of_ne_zero h0)).trans h.nr_lt

end

/-- Where the loop ends, the last remainder is the gcd. -/
theorem EuclidInv.gcd_of_zero (h : EuclidInv b p e t nt r nr) (hz : nr.m = 0) : r.m = Nat.gcd b p := by
  rw [Nat.gcd_comm, ← h.gcd_eq, hz, Nat.gcd_zero_right]

/-- The loop ends with the gcd and a coefficient that gives it. -/
theorem EuclidInv.modinvLoop_ends (hp : p < 2 ^ 256) {fuel : Nat} (h : EuclidInv b p e t nt r nr) (hf : nr.m ≤ fuel) :
    ∃ t' r', modinvLoop fuel t nt r nr = .ok (t', r') ∧ r'.m = Nat.gcd b p ∧ t'.val * b ≡ r'.m [ZMOD p] ∧
      t'.m ≤ max p 1 := by
  induction fuel generalizing e t nt r nr with
  | zero => exact ⟨t, r, rfl, h.gcd_of_zero (Nat.le_zero.mp hf), h.t_congr, h.t_le⟩
  | succ fuel ih =>
    by_cases hz : nr.m = 0
    · exact ⟨t, r, if_pos hz, h.gcd_of_zero hz, h.t_congr, h.t_le⟩
    · have hlt : r.m % nr.m ≤ fuel := by
        have := Nat.mod_lt r.m (Nat.pos_of_ne_zero hz)
        omega
      rw [modinvLoop_step t nt r nr (fuel + 1) fuel hz hf (h.nr_lt.trans (by decide)) (h.r_lt.trans (by decide)) hlt]
      exact ih (h.turn h.quotient_val hz hp) (by rwa [h.next_rem_m h.quotient_val])

end

/-! ### modinv (R164) -/

/-- What modinv makes of a coefficient z: p is added to a negative one. -/
def addIfNegative (z : Int) (p : Nat) : Int := if z < 0 then z + p else z

/-- The magnitude modinv hands to narrow. -/
theorem adjusted_m {t : Signed} {p : Nat} (h : t.m + p < 2 ^ 512) :
    (if scmp t ⟨0, true⟩ = .lt then sadd t ⟨p, true⟩ else t).m = (addIfNegative t.val p).natAbs := by
  have hneg : scmp t ⟨0, true⟩ = .lt ↔ t.val < 0 := by rw [scmp_eq_compare, compare_lt_iff_lt]; rfl
  rw [← Signed.natAbs_val, addIfNegative]
  by_cases hlt : t.val < 0
  · rw [if_pos (hneg.mpr hlt), if_pos hlt]
    exact congrArg Int.natAbs (val_sadd h)
  · rw [if_neg (mt hneg.mp hlt), if_neg hlt]

theorem natAbs_addIfNegative_le {z : Int} {p : Nat} (h : z.natAbs ≤ max p 1) :
    (addIfNegative z p).natAbs ≤ max p 1 := by
  unfold addIfNegative
  split_ifs <;> omega

theorem addIfNegative_nonneg {z : Int} {p : Nat} (hp : 0 < p) (h : z.natAbs ≤ max p 1) : 0 ≤ addIfNegative z p := by
  unfold addIfNegative
  split_ifs <;> omega

theorem addIfNegative_modEq (z : Int) (p : Nat) : addIfNegative z p ≡ z [ZMOD p] := by
  unfold addIfNegative
  split_ifs
  · exact Int.add_modEq_right
  · rfl

theorem modinv_zero (p : Nat) : modinv 0 p = .error .divideByZero := rfl

section
variable {b p : Nat} (hb : b < 2 ^ 256) (hp : p < 2 ^ 256) (h0 : b ≠ 0)
include hb hp h0

/-- For b not 0 modinv is decided by the loop's end, whose coefficient z gives the gcd. -/
theorem modinv_eq : ∃ z : Int, z * b ≡ (Nat.gcd b p : Nat) [ZMOD p] ∧ z.natAbs ≤ max p 1 ∧
    modinv b p = if Nat.gcd b p ≠ 1 then .error .noModularInverse else .ok (addIfNegative z p).natAbs := by
  obtain ⟨t, r, hloop, hr, hcongr, hle⟩ := (euclidInv_start hb hp).modinvLoop_ends hp (le_refl b)
  have habs : t.val.natAbs ≤ max p 1 := by rwa [Signed.natAbs_val]
  have hlt : (addIfNegative t.val p).natAbs < 2 ^ 256 := (natAbs_addIfNegative_le habs).trans_lt (by omega)
  refine ⟨t.val, hr ▸ hcongr, habs, ?_⟩
  simp only [modinv, if_neg h0, widen, hloop, hr]
  rw [adjusted_m (by omega), narrow_eq (hlt.trans (by decide)), if_pos hlt]

theorem modinv_of_gcd_ne_one (hg : Nat.gcd b p ≠ 1) : modinv b p = .error .noModularInverse := by
  obtain ⟨z, -, -, h⟩ := modinv_eq hb hp h0
  rw [h, if_pos hg]

/-- For p > 0 the result is an inverse modulo p, of at most p; for p = 0 it is at most 1. -/
theorem modinv_of_coprime (hg : Nat.gcd b p = 1) :
    ∃ c, modinv b p = .ok c ∧ c ≤ max p 1 ∧ (0 < p → b * c ≡ 1 [MOD p]) := by
  obtain ⟨z, hcongr, habs, h⟩ := modinv_eq hb hp h0
  rw [hg] at hcongr
  refine ⟨_, h.trans (if_neg (not_not.mpr hg)), natAbs_addIfNegative_le habs, fun hpos => ?_⟩
  rw [← Int.natCast_modEq_iff, Nat.cast_mul, Int.natAbs_of_nonneg (addIfNegative_nonneg hpos habs), mul_comm]
  exact ((addIfNegative_modEq z p).mul_right _).trans hcongr

end

/-- An inverse modulo p is not p. -/
theorem lt_of_inverse {b c p : Nat} (hc : c ≤ p) (h : b * c % p = 1) : c < p := by
  refine lt_of_le_of_ne hc fun he => ?_
  rw [he, Nat.mul_mod_left] at h
  exact zero_ne_one h

/-! ### clock_div (R165) -/

theorem clockDiv_zero (a p : Nat) : clockDiv a 0 p = .error .divideByZero := rfl

section
variable {a b p : Nat}

theorem clockDiv_one_zero (ha : a < 2 ^ 256) : clockDiv a 1 0 = .error .divideByZero := by
  obtain ⟨c, hc, hle, -⟩ := modinv_of_coprime (b := 1) (p := 0) (by decide) (by decide) (by decide) (by decide)
  simp only [clockDiv, hc]
  rw [clockMul_eq ha (hle.trans_lt (by decide)) (by decide), if_pos rfl]

theorem clockDiv_of_gcd_ne_one (hb : b < 2 ^ 256) (hp : p < 2 ^ 256) (h0 : b ≠ 0) (hg : Nat.gcd b p ≠ 1) :
    clockDiv a b p = .error .noModularInverse := by
  simp only [clockDiv, modinv_of_gcd_ne_one hb hp h0 hg]

theorem clockDiv_of_coprime (ha : a < 2 ^ 256) (hb : b < 2 ^ 256) (hp : p < 2 ^ 256) (h0 : b ≠ 0)
    (hg : Nat.gcd b p = 1) (hp0 : p ≠ 0) :
    ∃ c, clockDiv a b p = .ok c ∧ c < p ∧ c * b % p = a % p := by
  obtain ⟨i, hi, hle, hinv⟩ := modinv_of_coprime hb hp h0 hg
  have hpos := Nat.pos_of_ne_zero hp0
  refine ⟨a * i % p, ?_, Nat.mod_lt _ hpos, ?_⟩
  · simp only [clockDiv, hi]
    rw [clockMul_eq ha (by omega) hp, if_neg hp0]
  · rw [Nat.mod_mul_mod, mul_assoc, mul_comm i]
    exact ((hinv hpos).mul_left a).trans (by rw [mul_one])

end

/-- The end of MDIV, and of MINV with a = 1. -/
theorem clockDiv_ends (s : State) (rd : Reg) {a b p : Nat} (ha : a < 2 ^ 256) (hb : b < 2 ^ 256) (hp : p < 2 ^ 256) :
    ∃ t, s.commitReg rd ((clockDiv a b p).map .ofUnsigned) = .next t ∧
      (b ≠ 0 → Nat.gcd b p = 1 → p ≠ 0 → ∃ c, c < p ∧ (c * b) % p = a % p ∧ WroteReg s t rd c true) ∧
      (b = 0 → Raised s t 1) ∧ (b ≠ 0 → Nat.gcd b p ≠ 1 → Raised s t 2) ∧ (b = 1 → p = 0 → Raised s t 1) := by
  obtain ⟨t, ht, hok, herr⟩ := commitReg_map_ofUnsigned_ends s rd fun _ => clockDiv_ok_lt (a := a) (b := b) (p := p)
  refine ⟨t, ht, fun h0 hg hp0 => ?_, fun h => herr .divideByZero ?_,
    fun h0 hg => herr .noModularInverse (clockDiv_of_gcd_ne_one hb hp h0 hg), fun h h' => herr .divideByZero ?_⟩
  · obtain ⟨c, hc, hlt, hmul⟩ := clockDiv_of_coprime ha hb hp h0 hg hp0
    exact ⟨c, hlt, hmul, hok c hc⟩
  · rw [h, clockDiv_zero]
  · rw [h, h', clockDiv_one_zero ha]

/-! ### The field of a prime modulus (R167) -/

theorem add_mod_of_reduced {x y p : Nat} (hx : x < p) (hy : y < p) :
    (x + y) % p = if p ≤ x + y then x + y - p else x + y := by
  rw [Nat.add_mod_eq_ite, Nat.mod_eq_of_lt hx, Nat.mod_eq_of_lt hy]

theorem sub_mod_of_le {x y p : Nat} (h : y ≤ x) (hx : x < p) : (x + p - y) % p = x - y := by
  rw [Nat.sub_add_comm h, Nat.add_mod_right, Nat.mod_eq_of_lt (by omega)]

theorem sub_mod_of_lt {x y p : Nat} (h : x < y) (hy : y < p) : (x + p - y) % p = p - (y - x) := by
  rw [Nat.mod_eq_of_lt (by omega)]
  omega

/-- A quotient below p by a divisor coprime to p is the only one below p. -/
theorem quotient_unique {W : Nat → Prop} {b p r : Nat} (hg : Nat.gcd b p = 1)
    (h : ∃ c, c < p ∧ c * b % p = r ∧ W c) :
    ∃ c, W c ∧ c < p ∧ c * b % p = r ∧ ∀ d, d < p → d * b % p = r → d = c := by
  obtain ⟨c, hlt, hc, w⟩ := h
  refine ⟨c, w, hlt, hc, fun d hd h => Nat.ModEq.eq_of_lt_of_lt ?_ hd hlt⟩
  exact Nat.ModEq.cancel_right_of_coprime (by rwa [Nat.gcd_comm]) (h.trans hc.symm)

end Sys2Proof.Machine

namespace Sys2Proof

open Sys2Proof.Machine Sys2Proof.Claim

/-- Settles O49: `clockAdd_eq` tells the two cases apart. -/
theorem modularAddSubtractsOnce : Obligations.ModularAddSubtractsOnce := by
  intro s rd a b m
  obtain ⟨t, ht, hok, herr⟩ := modularTernary_ends clockAdd_ok_lt s rd a b m
  rw [clockAdd_eq (lo256_lt _) (lo256_lt _) (lo256_lt _)] at hok herr
  exact ⟨decodes_of_fields rd a b m rfl, t, ht, fun h => hok _ (if_pos h),
    fun h => herr .widthOverflow (if_neg (not_lt.mpr h))⟩

/-- Settles O50: `clockSub_eq` tells the three cases apart. -/
theorem modularSubtractBorrowsOnce : Obligations.ModularSubtractBorrowsOnce := by
  intro s rd a b m
  obtain ⟨t, ht, hok, herr⟩ := modularTernary_ends clockSub_ok_lt s rd a b m
  rw [clockSub_eq (lo256_lt _) (lo256_lt _) (lo256_lt _)] at hok herr
  refine ⟨decodes_of_fields rd a b m rfl, t, ht, fun h => hok _ (if_pos h), fun h h' => hok _ ?_,
    fun h h' => herr .widthOverflow ?_⟩
  · rw [if_neg (not_le.mpr h), if_pos h']
  · rw [if_neg (not_le.mpr h), if_neg (not_le.mpr h')]

/-- Settles O51: `clockMul_eq` tells the two cases apart. -/
theorem modularMultiplyReduces : Obligations.ModularMultiplyReduces := by
  intro s rd a b m
  obtain ⟨t, ht, hok, herr⟩ := modularTernary_ends clockMul_ok_lt s rd a b m
  rw [clockMul_eq (lo256_lt _) (lo256_lt _) (lo256_lt _)] at hok herr
  exact ⟨decodes_of_fields rd a b m rfl, t, ht, fun h => hok _ (if_neg h), fun h => herr .divideByZero (if_pos h)⟩

/-- Settles O52: the loop of modinv is the extended Euclidean algorithm (`EuclidInv`). -/
theorem modularInverseIsCorrect : Obligations.ModularInverseIsCorrect := by
  intro b p hb hp
  refine ⟨fun h => by rw [h, modinv_zero], modinv_of_gcd_ne_one hb hp, fun h0 hg => ?_⟩
  obtain ⟨c, hc, hle, hinv⟩ := modinv_of_coprime hb hp h0 hg
  refine ⟨c, hc, fun h2 => ?_, fun h1 => by omega⟩
  have hmul : b * c % p = 1 := Nat.mod_eq_of_modEq (hinv (by omega)) h2
  exact ⟨lt_of_inverse (by omega) hmul, hmul⟩

/-- Settles O53: both commands end as `clockDiv` does. -/
theorem modularDivideAndInverse : Obligations.ModularDivideAndInverse := by
  intro s rd a b m
  refine ⟨⟨decodes_of_fields rd a b m rfl, ?_⟩, decodes_of_fields rd b 0 m rfl, ?_⟩
  · simp only [exec, execMdiv, modularTernary, Operand.u256_eq_lo256]
    exact clockDiv_ends s rd (lo256_lt _) (lo256_lt _) (lo256_lt _)
  · simp only [exec, execMinv, Operand.u256_eq_lo256]
    exact clockDiv_ends s rd (by decide) (lo256_lt _) (lo256_lt _)

/-- Settles O54: with reduced operands and a prime modulus, the ends of O49, O50, O51 and O53 that remain. -/
theorem primeModulusGivesFieldArithmetic : Obligations.PrimeModulusGivesFieldArithmetic := by
  intro s rd a b m x y p hprime h3 hx hy
  have hcoprime : ∀ {z}, z ≠ 0 → z < p → Nat.gcd z p = 1 := fun h0 h =>
    (Nat.coprime_of_lt_prime h0 h hprime).symm
  have hp0 := hprime.ne_zero
  obtain ⟨-, tAdd, hAdd, wAdd, -⟩ := modularAddSubtractsOnce s rd a b m
  obtain ⟨-, tSub, hSub, wSub, wBorrow, -⟩ := modularSubtractBorrowsOnce s rd a b m
  obtain ⟨-, tMul, hMul, wMul, -⟩ := modularMultiplyReduces s rd a b m
  obtain ⟨⟨-, tDiv, hDiv, wDiv, rDiv, -, -⟩, -⟩ := modularDivideAndInverse s rd a b m
  obtain ⟨-, -, tInv, hInv, wInv, rInv, -, -⟩ := modularDivideAndInverse s rd a a m
  refine ⟨⟨tAdd, hAdd, ?_⟩, ⟨tSub, hSub, ?_⟩, ⟨tMul, hMul, wMul hp0⟩, ⟨tDiv, hDiv, rDiv, fun h0 => ?_⟩,
    ⟨tInv, hInv, rInv, fun h0 => ?_⟩⟩
  · have hlt : (x + y) % p < 2 ^ 256 := (Nat.mod_lt _ hprime.pos).trans (lo256_lt _)
    rw [add_mod_of_reduced hx hy] at hlt ⊢
    exact wAdd hlt
  · rcases Nat.lt_or_ge x y with h | h
    · rw [sub_mod_of_lt h hy]
      exact wBorrow h (by omega)
    · rw [sub_mod_of_le h hx]
      exact wSub h
  · rw [Nat.mod_eq_of_lt hx] at wDiv
    exact quotient_unique (hcoprime h0 hy) (wDiv h0 (hcoprime h0 hy) hp0)
  · rw [Nat.mod_eq_of_lt (show 1 < _ from hprime.one_lt)] at wInv
    exact quotient_unique (hcoprime h0 hx) (wInv h0 (hcoprime h0 hx) hp0)

end Sys2Proof
end

section
/-! PROOF. The curve family (43_curve.md): PMAKE's check, doubling and addition as equations on naturals, with
WidthOverflow where `borrow` gives none, the recursion of psmul as the scan of the bits, and from them the obligations
O55 to O60. -/

set_option exponentiation.threshold 600

namespace Sys2Proof.Machine

open Sys2Proof.Claim

/-! ### Points as 256-bit pairs (10_state.md R23, R24) -/

/-- Both coordinates are 256-bit values, as an operand holds them. -/
def Point.Fits (P : Point) : Prop := P.x < 2 ^ 256 ∧ P.y < 2 ^ 256

theorem hi256_lt (o : Operand) : hi256 o < 2 ^ 256 :=
  Nat.div_lt_of_lt_mul (by rw [← pow_add]; exact o.val.isLt)

theorem Operand.point_eq (o : Operand) : o.point = ⟨lo256 o, hi256 o⟩ := by
  rw [Point.mk.injEq]
  exact ⟨o.point_x, o.point_y⟩

theorem Operand.point_eq_iff (o q : Operand) : o.point = q.point ↔ all512 o = all512 q := by
  rw [Operand.point_eq, Operand.point_eq, Point.mk.injEq]
  refine ⟨fun ⟨hlo, hhi⟩ => ?_, fun h => ⟨congrArg (· % 2 ^ 256) h, congrArg (· / 2 ^ 256) h⟩⟩
  rw [all512, all512, ← Nat.div_add_mod o.val.toNat (2 ^ 256), ← Nat.div_add_mod q.val.toNat (2 ^ 256)]
  exact congrArg₂ (2 ^ 256 * · + ·) hhi hlo

/-! ### What a command with a point result ends in -/

/-- `t` is `s` after a command whose result is `r`: the point in R[rd], or the error. -/
structure PointEnds (s t : State) (rd : Reg) (r : Except ErrorKind Point) : Prop where
  wrote : ∀ {x y}, r = .ok ⟨x, y⟩ → WroteReg s t rd (y * 2 ^ 256 + x) true
  raised : ∀ e, r = .error e → Raised s t e.code.toNat

theorem pointResult_ends (s : State) (rd : Reg) {r : Except ErrorKind Point} (hr : ∀ {Q}, r = .ok Q → Q.Fits) :
    ∃ t, pointResult rd r s = .next t ∧ PointEnds s t rd r := by
  cases r with
  | ok Q =>
    obtain ⟨t, ht, w⟩ := commitReg_ok s rd (.ofPoint Q)
    rw [Operand.ofPoint_toNat Q (hr rfl).1 (hr rfl).2] at w
    exact ⟨t, ht, fun h => by cases h; exact w, nofun⟩
  | error e =>
    obtain ⟨t, ht, h⟩ := commitReg_error s rd e
    exact ⟨t, ht, nofun, fun _ h' => by cases h'; exact h⟩

/-- A sequence of one-borrow subtractions as a result: WidthOverflow where one of them overflowed. -/
def pointOrOverflow : Option (Nat × Nat) → Except ErrorKind Point
  | some (x, y) => .ok ⟨x, y⟩
  | none => .error .widthOverflow

theorem PointEnds.endsIn {s t : State} {rd : Reg} {r : Except ErrorKind Point} (h : PointEnds s t rd r)
    {o : Option (Nat × Nat)} (hr : r = pointOrOverflow o) : EndsIn s t rd o :=
  ⟨fun ho => h.raised .widthOverflow (by rw [hr, ho]; rfl), fun x y ho => h.wrote (by rw [hr, ho]; rfl)⟩

/-! ### Results are 256-bit values, whatever the operands (40_unsigned.md R101) -/

theorem narrow_ok_lt_256 {v w : Nat} (hv : v < 2 ^ 512) (h : narrow v = .ok w) : w < 2 ^ 256 := by
  rw [narrow_eq hv] at h
  split at h <;> cases h
  assumption

theorem clockSub_ok_lt_256 {a b p v : Nat} (h : clockSub a b p = .ok v) : v < 2 ^ 256 := by
  refine narrow_ok_lt_256 ?_ h
  split <;> exact usub_lt .w512 _ _

/-- A result reached through a first result `a` has what every continuation from `a` gives it. -/
theorem of_bind_ok {α β : Type} {r : Except ErrorKind α} {f : α → Except ErrorKind β} {φ : β → Prop}
    (hf : ∀ a, r = .ok a → ∀ b, f a = .ok b → φ b) : ∀ b, (r >>= f) = .ok b → φ b := by
  cases r with
  | ok a => exact hf a rfl
  | error e => exact nofun

theorem pdbl_fits (C : Curve) (P : Point) : ∀ Q, pdbl C P = .ok Q → Q.Fits := by
  unfold pdbl
  refine of_bind_ok fun _ _ => of_bind_ok fun _ _ => of_bind_ok fun _ _ => of_bind_ok fun _ _ => of_bind_ok fun _ _ =>
    of_bind_ok fun _ _ => of_bind_ok fun _ _ => of_bind_ok fun x' hx => of_bind_ok fun _ _ => of_bind_ok fun _ _ =>
    of_bind_ok fun y' hy => ?_
  intro Q hQ
  cases hQ
  exact ⟨clockSub_ok_lt_256 hx, clockSub_ok_lt_256 hy⟩

theorem padd_fits (C : Curve) (P1 P2 : Point) : ∀ Q, padd C P1 P2 = .ok Q → Q.Fits := by
  unfold padd
  split
  · exact nofun
  refine of_bind_ok fun _ _ => of_bind_ok fun _ _ => of_bind_ok fun _ _ => of_bind_ok fun _ _ => of_bind_ok fun _ _ =>
    of_bind_ok fun x3 hx => of_bind_ok fun _ _ => of_bind_ok fun _ _ => of_bind_ok fun y3 hy => ?_
  intro Q hQ
  cases hQ
  exact ⟨clockSub_ok_lt_256 hx, clockSub_ok_lt_256 hy⟩

/-! ### One-borrow subtraction (42_modular.md R162) -/

section
variable {a b p : Nat}

theorem borrow_lt {v : Nat} (ha : a < 2 ^ 256) (hp : p < 2 ^ 256) (h : borrow a b p = some v) : v < 2 ^ 256 := by
  unfold borrow at h
  split_ifs at h <;> cases h <;> omega

theorem clockSub_eq_borrow (ha : a < 2 ^ 256) (hb : b < 2 ^ 256) (hp : p < 2 ^ 256) :
    clockSub a b p = (borrow a b p).elim (.error .widthOverflow) .ok := by
  rw [clockSub_eq ha hb hp]
  unfold borrow
  split_ifs <;> rfl

/-- A subtraction inside a sequence of them. -/
theorem clockSub_bind {k : Nat → Except ErrorKind Point} {g : Nat → Option (Nat × Nat)}
    (ha : a < 2 ^ 256) (hb : b < 2 ^ 256) (hp : p < 2 ^ 256) (hk : ∀ v, v < 2 ^ 256 → k v = pointOrOverflow (g v)) :
    (clockSub a b p >>= k) = pointOrOverflow ((borrow a b p).bind g) := by
  rw [clockSub_eq_borrow ha hb hp]
  cases h : borrow a b p with
  | none => rfl
  | some v => exact hk v (borrow_lt ha hp h)

/-- Of values below p it is the difference modulo p. -/
theorem borrow_of_reduced (ha : a < p) (hb : b < p) : borrow a b p = some ((a + p - b) % p) := by
  unfold borrow
  split_ifs with h h'
  · rw [sub_mod_of_le h ha]
  · rw [sub_mod_of_lt (not_le.mp h) hb]
  · omega

theorem sub_mod_add_mod (hb : b ≤ p) : ((a + p - b) % p + b) % p = a % p := by
  rw [Nat.mod_add_mod, Nat.sub_add_cancel (hb.trans (Nat.le_add_left p a)), Nat.add_mod_right]

theorem sub_sub_mod_add_add_mod {c : Nat} (hb : b ≤ p) (hc : c ≤ p) :
    (((a + p - b) % p + p - c) % p + b + c) % p = a % p := by
  rw [Nat.add_right_comm, ← Nat.mod_add_mod, sub_mod_add_mod hc, Nat.mod_add_mod, sub_mod_add_mod hb]

end

/-! ### clock_add and clock_mul modulo a p that is not 0 -/

section
variable {a b p : Nat}

theorem clockAdd_of_reduced (ha : a < p) (hb : b < p) (hp : p < 2 ^ 256) : clockAdd a b p = .ok ((a + b) % p) := by
  have hlt : (a + b) % p < 2 ^ 256 := (Nat.mod_lt _ (Nat.zero_lt_of_lt ha)).trans hp
  rw [add_mod_of_reduced ha hb] at hlt ⊢
  exact (clockAdd_eq (ha.trans hp) (hb.trans hp) hp).trans (if_pos hlt)

section
variable {α : Type} {k : Nat → Except ErrorKind α}

theorem clockAdd_bind (ha : a < p) (hb : b < p) (hp : p < 2 ^ 256) : (clockAdd a b p >>= k) = k ((a + b) % p) := by
  rw [clockAdd_of_reduced ha hb hp]
  rfl

theorem clockMul_bind (ha : a < 2 ^ 256) (hb : b < 2 ^ 256) (hp : p < 2 ^ 256) (hpos : 0 < p) :
    (clockMul a b p >>= k) = k (a * b % p) := by
  rw [clockMul_eq ha hb hp, if_neg hpos.ne']
  rfl

end

end

/-! ### The new point, from the slope on (R184, R185) -/

/-- The end of both formulas: from the slope lam, a point (x, y) of the line and the new x' to the new point. -/
def chordEnd (p lam x y x' : Nat) : Option (Nat × Nat) :=
  (borrow x x' p).bind fun e => (borrow (lam * e % p) y p).map fun y' => (x', y')

/-- R184 from the slope on. -/
def tangentPoint (p lam x y : Nat) : Option (Nat × Nat) :=
  (borrow (lam ^ 2 % p) (2 * x % p) p).bind (chordEnd p lam x y)

/-- R185 from the slope on. -/
def chordPoint (p lam x1 y1 x2 : Nat) : Option (Nat × Nat) :=
  (borrow (lam ^ 2 % p) x1 p).bind fun u => (borrow u x2 p).bind (chordEnd p lam x1 y1)

theorem mod_lt_256 {p : Nat} (hp : p < 2 ^ 256) (hpos : 0 < p) (v : Nat) : v % p < 2 ^ 256 :=
  (Nat.mod_lt v hpos).trans hp

/-- The last three operations of pdbl and of padd are `chordEnd`. -/
theorem chordEnd_eq {p lam x y x' : Nat} (hp : p < 2 ^ 256) (hpos : 0 < p) (hlam : lam < 2 ^ 256) (hx : x < 2 ^ 256)
    (hy : y < 2 ^ 256) (hx' : x' < 2 ^ 256) :
    (do
      let e ← clockSub x x' p
      let le ← clockMul lam e p
      let y' ← clockSub le y p
      return (⟨x', y'⟩ : Point)) = pointOrOverflow (chordEnd p lam x y x') := by
  refine clockSub_bind hx hx' hp fun e he => ?_
  rw [clockMul_bind hlam he hp hpos, Option.map_eq_bind]
  exact clockSub_bind (mod_lt_256 hp hpos _) hy hp fun y' _ => rfl

/-! On values below p each end is the point the formulas give modulo p. -/

section
variable {p lam x y : Nat} (hx : x < p) (hy : y < p)
include hx hy

theorem chordEnd_of_reduced {x' : Nat} (hx' : x' < p) :
    ∃ y', y' < p ∧ (y' + y) % p = lam * (x + p - x') % p ∧ chordEnd p lam x y x' = some (x', y') := by
  have hpos := Nat.zero_lt_of_lt hx
  refine ⟨(lam * ((x + p - x') % p) % p + p - y) % p, Nat.mod_lt _ hpos, ?_, ?_⟩
  · rw [sub_mod_add_mod hy.le, Nat.mod_mod, Nat.mul_mod_mod]
  · rw [chordEnd, borrow_of_reduced hx hx', Option.bind_some, borrow_of_reduced (Nat.mod_lt _ hpos) hy,
      Option.map_some]

theorem tangentPoint_of_reduced : ∃ x' y', x' < p ∧ y' < p ∧ (x' + 2 * x) % p = lam ^ 2 % p ∧
    (y' + y) % p = lam * (x + p - x') % p ∧ tangentPoint p lam x y = some (x', y') := by
  have hlt : ∀ v, v % p < p := fun v => Nat.mod_lt v (Nat.zero_lt_of_lt hx)
  have hxeq : ((lam ^ 2 % p + p - 2 * x % p) % p + 2 * x) % p = lam ^ 2 % p := by
    rw [← Nat.add_mod_mod, sub_mod_add_mod (hlt _).le, Nat.mod_mod]
  obtain ⟨y', hy', hyeq, hend⟩ := chordEnd_of_reduced (lam := lam) hx hy (hlt (lam ^ 2 % p + p - 2 * x % p))
  refine ⟨_, y', hlt _, hy', hxeq, hyeq, ?_⟩
  rw [tangentPoint, borrow_of_reduced (hlt _) (hlt _), Option.bind_some, hend]

theorem chordPoint_of_reduced {x2 : Nat} (hx2 : x2 < p) : ∃ x3 y3, x3 < p ∧ y3 < p ∧
    (x3 + x + x2) % p = lam ^ 2 % p ∧ (y3 + y) % p = lam * (x + p - x3) % p ∧
    chordPoint p lam x y x2 = some (x3, y3) := by
  have hlt : ∀ v, v % p < p := fun v => Nat.mod_lt v (Nat.zero_lt_of_lt hx)
  obtain ⟨y3, hy3, hyeq, hend⟩ := chordEnd_of_reduced (lam := lam) hx hy (hlt ((lam ^ 2 % p + p - x) % p + p - x2))
  refine ⟨_, y3, hlt _, hy3, (sub_sub_mod_add_add_mod hx.le hx2.le).trans (Nat.mod_mod _ _), hyeq, ?_⟩
  rw [chordPoint, borrow_of_reduced (hlt _) hx, Option.bind_some, borrow_of_reduced (hlt _) hx2, Option.bind_some, hend]

end

/-! ### clock_div as it stands in a sequence (R165) -/

section
variable {a b p : Nat}

theorem clockMul_ok_lt_256 {v : Nat} (h : clockMul a b p = .ok v) : v < 2 ^ 256 := by
  unfold clockMul at h
  dsimp only at h
  split at h
  · split at h
    · exact narrow_ok_lt_256 (usub_lt .w512 _ _) h
    · cases h
  · exact narrow_ok_lt_256 (umul_lt .w512 _ _) h

theorem clockDiv_ok_lt_256 {v : Nat} (h : clockDiv a b p = .ok v) : v < 2 ^ 256 := by
  unfold clockDiv at h
  split at h
  · exact clockMul_ok_lt_256 h
  · cases h

/-- What follows a division needs to agree only on its 256-bit results. -/
theorem clockDiv_bind_congr {α : Type} {f g : Nat → Except ErrorKind α} (h : ∀ lam, lam < 2 ^ 256 → f lam = g lam) :
    (clockDiv a b p >>= f) = (clockDiv a b p >>= g) := by
  cases hd : clockDiv a b p with
  | error e => rfl
  | ok lam => exact h lam (clockDiv_ok_lt_256 hd)

end

/-! ### PMAKE's check (R183) -/

/-- The clock operations compute both sides of the curve equation modulo p. -/
theorem pointCheck_eq {C : Curve} {x y : Nat} (hb : C.b < C.p) (hx : x < 2 ^ 256) (hy : y < 2 ^ 256) :
    pointCheck C x y =
      if x < C.p ∧ y < C.p ∧ y ^ 2 % C.p = (x ^ 3 + C.a * x + C.b) % C.p then .ok ⟨x, y⟩ else .error .invalidPoint := by
  have hp := curve_p_lt C
  have hpos := Nat.zero_lt_of_lt hb
  have hmod := mod_lt_256 hp hpos
  have hlt : ∀ v, v % C.p < C.p := fun v => Nat.mod_lt v hpos
  by_cases hin : x < C.p ∧ y < C.p
  case neg =>
    rw [pointCheck, if_pos (by omega), if_neg fun h => hin ⟨h.1, h.2.1⟩]
    rfl
  rw [pointCheck, if_neg (by omega), clockMul_bind hy hy hp hpos, clockMul_bind hx hx hp hpos,
    clockMul_bind (hmod _) hx hp hpos, clockMul_bind (curve_a_lt C) hx hp hpos, clockAdd_bind (hlt _) (hlt _) hp,
    clockAdd_bind (hlt _) hb hp]
  have hrhs : ((x * x % C.p * x % C.p + C.a * x % C.p) % C.p + C.b) % C.p = (x ^ 3 + C.a * x + C.b) % C.p := by
    rw [Nat.mod_mul_mod, ← Nat.add_mod, Nat.mod_add_mod]
    ring_nf
  rw [hrhs, ← sq]
  by_cases heq : y ^ 2 % C.p = (x ^ 3 + C.a * x + C.b) % C.p
  · rw [if_neg (not_not.mpr heq), if_pos ⟨hin.1, hin.2, heq⟩]
    rfl
  · rw [if_pos heq, if_neg fun h => heq h.2.2]
    rfl

theorem pointCheck_fits {C : Curve} {x y : Nat} (hb : C.b < C.p) (hx : x < 2 ^ 256) (hy : y < 2 ^ 256) {Q : Point}
    (h : pointCheck C x y = .ok Q) : Q.Fits := by
  rw [pointCheck_eq hb hx hy] at h
  split at h <;> cases h
  exact ⟨hx, hy⟩

/-! ### pdbl (R184) -/

section
variable {C : Curve} {P : Point} (ha : C.a < C.p)
include ha

/-- pdbl is a division, then the subtractions of `tangentPoint`. -/
theorem pdbl_eq (hP : P.Fits) :
    pdbl C P = (clockDiv ((3 * P.x ^ 2 + C.a) % C.p) (2 * P.y % C.p) C.p >>= fun lam =>
      pointOrOverflow (tangentPoint C.p lam P.x P.y)) := by
  obtain ⟨hx, hy⟩ := hP
  have hp := curve_p_lt C
  have hpos := Nat.zero_lt_of_lt ha
  have hmod := mod_lt_256 hp hpos
  rw [pdbl, clockMul_bind hx hx hp hpos, clockMul_bind (by decide) (hmod _) hp hpos,
    clockAdd_bind (Nat.mod_lt _ hpos) ha hp, clockMul_bind (by decide) hy hp hpos, Nat.mul_mod_mod, Nat.mod_add_mod,
    ← sq]
  refine clockDiv_bind_congr fun lam hlam => ?_
  rw [clockMul_bind hlam hlam hp hpos, clockMul_bind (by decide) hx hp hpos, ← sq]
  exact clockSub_bind (hmod _) (hmod _) hp fun x' hx' => chordEnd_eq hp hpos hlam hx hy hx'

theorem pdbl_of_zero (hP : P.Fits) (h : 2 * P.y % C.p = 0) : pdbl C P = .error .divideByZero := by
  rw [pdbl_eq ha hP, h, clockDiv_zero]
  rfl

theorem pdbl_of_gcd_ne_one (hP : P.Fits) (h : 2 * P.y % C.p ≠ 0) (hg : Nat.gcd (2 * P.y) C.p ≠ 1) :
    pdbl C P = .error .noModularInverse := by
  have hp := curve_p_lt C
  rw [pdbl_eq ha hP, clockDiv_of_gcd_ne_one (mod_lt_256 hp (Nat.zero_lt_of_lt ha) _) hp h
    (by rwa [(Nat.mod_modEq _ _).gcd_eq])]
  rfl

theorem pdbl_of_coprime (hP : P.Fits) (h : 2 * P.y % C.p ≠ 0) (hg : Nat.gcd (2 * P.y) C.p = 1) :
    ∃ lam, lam < C.p ∧ lam * (2 * P.y) % C.p = (3 * P.x ^ 2 + C.a) % C.p ∧
      pdbl C P = pointOrOverflow (tangentPoint C.p lam P.x P.y) := by
  have hp := curve_p_lt C
  have hpos := Nat.zero_lt_of_lt ha
  obtain ⟨lam, hdiv, hlt, hmul⟩ := clockDiv_of_coprime (a := (3 * P.x ^ 2 + C.a) % C.p) (mod_lt_256 hp hpos _)
    (mod_lt_256 hp hpos _) hp h (by rwa [(Nat.mod_modEq _ _).gcd_eq]) hpos.ne'
  rw [Nat.mul_mod_mod, Nat.mod_mod] at hmul
  refine ⟨lam, hlt, hmul, ?_⟩
  rw [pdbl_eq ha hP, hdiv]
  rfl

/-- Doubling a point with coordinates below p, where the slope exists. -/
theorem pdbl_of_reduced (hx : P.x < C.p) (hy : P.y < C.p) (h : 2 * P.y % C.p ≠ 0) (hg : Nat.gcd (2 * P.y) C.p = 1) :
    ∃ lam x' y', lam < C.p ∧ x' < C.p ∧ y' < C.p ∧ lam * (2 * P.y) % C.p = (3 * P.x ^ 2 + C.a) % C.p ∧
      (x' + 2 * P.x) % C.p = lam ^ 2 % C.p ∧ (y' + P.y) % C.p = lam * (P.x + C.p - x') % C.p ∧
      pdbl C P = .ok ⟨x', y'⟩ := by
  have hp := curve_p_lt C
  obtain ⟨lam, hlt, hmul, hpdbl⟩ := pdbl_of_coprime ha ⟨hx.trans hp, hy.trans hp⟩ h hg
  obtain ⟨x', y', hx', hy', hxeq, hyeq, hpt⟩ := tangentPoint_of_reduced (lam := lam) hx hy
  exact ⟨lam, x', y', hlt, hx', hy', hmul, hxeq, hyeq, by rw [hpdbl, hpt]; rfl⟩

end

/-! ### padd (R185) -/

theorem padd_of_x_eq {C : Curve} {P Q : Point} (h : P.x = Q.x) : padd C P Q = .error .degenerateGeometry :=
  if_pos h

section
variable {C : Curve} {P Q : Point} (hp0 : C.p ≠ 0) (hP : P.Fits) (hQ : Q.Fits) (hne : P.x ≠ Q.x)
include hp0 hP hQ hne

/-- For different x padd is two subtractions and a division, then the subtractions of `chordPoint`. -/
theorem padd_eq : padd C P Q =
    (clockSub Q.y P.y C.p >>= fun dy => clockSub Q.x P.x C.p >>= fun dx => clockDiv dy dx C.p >>= fun lam =>
      pointOrOverflow (chordPoint C.p lam P.x P.y Q.x)) := by
  obtain ⟨hx, hy⟩ := hP
  have hp := curve_p_lt C
  have hpos := Nat.pos_of_ne_zero hp0
  rw [padd, if_neg hne]
  refine bind_congr fun dy => bind_congr fun dx => clockDiv_bind_congr fun lam hlam => ?_
  rw [clockMul_bind hlam hlam hp hpos, ← sq]
  exact clockSub_bind (mod_lt_256 hp hpos _) hx hp fun u hu => clockSub_bind hu hQ.1 hp fun x3 hx3 =>
    chordEnd_eq hp hpos hlam hx hy hx3

theorem padd_of_overflow (h : borrow Q.y P.y C.p = none ∨ borrow Q.x P.x C.p = none) :
    padd C P Q = .error .widthOverflow := by
  have hp := curve_p_lt C
  rw [padd_eq hp0 hP hQ hne, clockSub_eq_borrow hQ.2 hP.2 hp, clockSub_eq_borrow hQ.1 hP.1 hp]
  rcases h with h | h
  · rw [h]
    rfl
  · rw [h]
    cases borrow Q.y P.y C.p <;> rfl

section
variable {dx dy : Nat} (hdy : borrow Q.y P.y C.p = some dy) (hdx : borrow Q.x P.x C.p = some dx)
include hdy hdx

theorem padd_of_differences : padd C P Q =
    (clockDiv dy dx C.p >>= fun lam => pointOrOverflow (chordPoint C.p lam P.x P.y Q.x)) := by
  have hp := curve_p_lt C
  rw [padd_eq hp0 hP hQ hne, clockSub_eq_borrow hQ.2 hP.2 hp, clockSub_eq_borrow hQ.1 hP.1 hp, hdy, hdx]
  rfl

theorem padd_of_zero (h : dx = 0) : padd C P Q = .error .divideByZero := by
  rw [padd_of_differences hp0 hP hQ hne hdy hdx, h, clockDiv_zero]
  rfl

theorem padd_of_gcd_ne_one (h : dx ≠ 0) (hg : Nat.gcd dx C.p ≠ 1) : padd C P Q = .error .noModularInverse := by
  have hp := curve_p_lt C
  rw [padd_of_differences hp0 hP hQ hne hdy hdx, clockDiv_of_gcd_ne_one (borrow_lt hQ.1 hp hdx) hp h hg]
  rfl

theorem padd_of_coprime (h : dx ≠ 0) (hg : Nat.gcd dx C.p = 1) : ∃ lam, lam < C.p ∧ lam * dx % C.p = dy % C.p ∧
    padd C P Q = pointOrOverflow (chordPoint C.p lam P.x P.y Q.x) := by
  have hp := curve_p_lt C
  obtain ⟨lam, hdiv, hlt, hmul⟩ :=
    clockDiv_of_coprime (borrow_lt hQ.2 hp hdy) (borrow_lt hQ.1 hp hdx) hp h hg hp0
  refine ⟨lam, hlt, hmul, ?_⟩
  rw [padd_of_differences hp0 hP hQ hne hdy hdx, hdiv]
  rfl

end

end

/-- The difference modulo p of different values below p is not 0. -/
theorem sub_mod_ne_zero {a b p : Nat} (ha : a < p) (hb : b < p) (h : a ≠ b) : (a + p - b) % p ≠ 0 := by
  rcases Nat.lt_or_ge a b with hlt | hle
  · rw [sub_mod_of_lt hlt hb]
    omega
  · rw [sub_mod_of_le hle ha]
    omega

section
variable {C : Curve} {P Q : Point} (hPx : P.x < C.p) (hPy : P.y < C.p) (hQx : Q.x < C.p) (hQy : Q.y < C.p)
  (hne : P.x ≠ Q.x)
include hPx hPy hQx hQy hne

/-- Adding points with coordinates below p, where the slope does not exist. -/
theorem padd_of_reduced_of_gcd_ne_one (hg : Nat.gcd ((Q.x + C.p - P.x) % C.p) C.p ≠ 1) :
    padd C P Q = .error .noModularInverse := by
  have hp := curve_p_lt C
  exact padd_of_gcd_ne_one (Nat.ne_zero_of_lt hPx) ⟨hPx.trans hp, hPy.trans hp⟩ ⟨hQx.trans hp, hQy.trans hp⟩ hne
    (borrow_of_reduced hQy hPy) (borrow_of_reduced hQx hPx) (sub_mod_ne_zero hQx hPx hne.symm) hg

/-- Adding points with coordinates below p, where the slope exists. -/
theorem padd_of_reduced (hg : Nat.gcd ((Q.x + C.p - P.x) % C.p) C.p = 1) :
    ∃ lam x3 y3, lam < C.p ∧ x3 < C.p ∧ y3 < C.p ∧
      lam * (Q.x + C.p - P.x) % C.p = (Q.y + C.p - P.y) % C.p ∧ (x3 + P.x + Q.x) % C.p = lam ^ 2 % C.p ∧
      (y3 + P.y) % C.p = lam * (P.x + C.p - x3) % C.p ∧ padd C P Q = .ok ⟨x3, y3⟩ := by
  have hp := curve_p_lt C
  obtain ⟨lam, hlt, hmul, hpadd⟩ := padd_of_coprime (Nat.ne_zero_of_lt hPx) ⟨hPx.trans hp, hPy.trans hp⟩
    ⟨hQx.trans hp, hQy.trans hp⟩ hne (borrow_of_reduced hQy hPy) (borrow_of_reduced hQx hPx)
    (sub_mod_ne_zero hQx hPx hne.symm) hg
  rw [Nat.mul_mod_mod, Nat.mod_mod] at hmul
  obtain ⟨x3, y3, hx3, hy3, hxeq, hyeq, hpt⟩ := chordPoint_of_reduced (lam := lam) hPx hPy hQx
  exact ⟨lam, x3, y3, hlt, hx3, hy3, hmul, hxeq, hyeq, by rw [hpadd, hpt]; rfl⟩

end

/-! ### psmul and the scan of the bits (R186, R188) -/

theorem psmulFrom_fits {C : Curve} {P : Point} (hP : P.Fits) (fuel k : Nat) :
    ∀ Q, psmulFrom C fuel k P = .ok Q → Q.Fits := by
  induction fuel generalizing k with
  | zero => exact nofun
  | succ fuel ih =>
    unfold psmulFrom
    split_ifs
    · exact nofun
    · intro Q h
      cases h
      exact hP
    · split
      · exact pdbl_fits C _
      · exact nofun
    · split
      · exact padd_fits C _ P
      · exact nofun

/-- What the scan does at one bit of the scalar: a doubling and, for a 1, an addition. -/
def scanBit (C : Curve) (P : Point) (bit : Bool) (Q : Point) : Except ErrorKind Point :=
  pdbl C Q >>= fun Q2 => if bit then padd C Q2 P else .ok Q2

theorem psmulScanFrom_succ (C : Curve) (k : Nat) (P : Point) (i : Nat) (Q : Point) :
    psmulScanFrom C k P (i + 1) Q = (scanBit C P (k.testBit i) Q >>= psmulScanFrom C k P i) := by
  rw [psmulScanFrom, scanBit]
  cases pdbl C Q with
  | error e => rfl
  | ok Q2 =>
    cases k.testBit i with
    | false => rfl
    | true =>
      dsimp only [if_true]
      change _ = (padd C Q2 P >>= _)
      cases padd C Q2 P <;> rfl

/-- psmul at a scalar with one more bit below. -/
theorem psmul_bit (C : Curve) (P : Point) (bit : Bool) {m : Nat} (hm : 1 ≤ m) :
    psmul C (2 * m + bit.toNat) P = (psmul C m P >>= scanBit C P bit) := by
  have heven : psmul C (2 * m) P = (psmul C m P >>= pdbl C) := by
    rw [psmul_even C P (by omega) (by omega), Nat.mul_div_cancel_left m (by decide)]
    rfl
  cases bit with
  | false =>
    rw [Bool.toNat_false, Nat.add_zero, heven]
    cases psmul C m P with
    | error e => rfl
    | ok Q =>
      show pdbl C Q = (pdbl C Q >>= Except.ok)
      cases pdbl C Q <;> rfl
  | true =>
    rw [Bool.toNat_true, psmul_odd C P (by omega) (by omega), Nat.add_sub_cancel, heven]
    cases psmul C m P <;> rfl

/-- After the bits of k from i up psmul stands at k / 2^i, and the scan of the bits below i gives the rest. -/
theorem psmul_eq_scanFrom (C : Curve) (P : Point) (k i : Nat) (hi : 2 ^ i ≤ k) :
    psmul C k P = (psmul C (k / 2 ^ i) P >>= psmulScanFrom C k P i) := by
  induction i with
  | zero =>
    rw [pow_zero, Nat.div_one]
    cases psmul C k P <;> rfl
  | succ i ih =>
    have hm : 1 ≤ k / 2 ^ (i + 1) := (Nat.one_le_div_iff (Nat.two_pow_pos _)).mpr hi
    have hsplit : k / 2 ^ i = 2 * (k / 2 ^ (i + 1)) + (k.testBit i).toNat := by
      rw [Nat.toNat_testBit, pow_succ, ← Nat.div_div_eq_div_mul, Nat.div_add_mod]
    rw [ih ((Nat.pow_le_pow_right (by decide) i.le_succ).trans hi), hsplit, psmul_bit C P _ hm]
    cases psmul C (k / 2 ^ (i + 1)) P with
    | error e => rfl
    | ok Q => exact (psmulScanFrom_succ C k P i Q).symm

/-- R188: for a scalar that is not 0 the recursion and the scan give the same result or the same error. -/
theorem psmul_eq_psmulScan (C : Curve) (P : Point) {k : Nat} (hk : k ≠ 0) : psmul C k P = psmulScan C k P := by
  have hlead : k / 2 ^ k.log2 = 1 := by
    rw [Nat.div_eq_iff (Nat.two_pow_pos _)]
    have := Nat.log2_self_le hk
    have := Nat.lt_log2_self (n := k)
    omega
  rw [psmul_eq_scanFrom C P k k.log2 (Nat.log2_self_le hk), hlead, psmul_one]
  rfl

end Sys2Proof.Machine

namespace Sys2Proof

open Sys2Proof.Machine Sys2Proof.Claim

/-- Settles O56: PMAKE ends as `pointCheck_eq` says. -/
theorem pmakeAcceptsExactlyThePointsOfTheCurve : Obligations.PmakeAcceptsExactlyThePointsOfTheCurve := by
  intro s rd a b hb
  have hx := lo256_lt (s.src1 a)
  have hy := lo256_lt (s.src2 b)
  obtain ⟨t, ht, ends⟩ := pointResult_ends s rd (pointCheck_fits hb hx hy)
  rw [pointCheck_eq hb hx hy] at ends
  refine ⟨decodes_of_fields rd a b 0 rfl, t, ?_, fun hgood => ends.wrote (if_pos hgood),
    fun hbad => ends.raised .invalidPoint (if_neg hbad)⟩
  simp only [exec, execPmake, Operand.u256_eq_lo256, ht]

/-- Settles O57: the cases of the division by 2y (`pdbl_eq`). -/
theorem pointDoublingFollowsTheFormula : Obligations.PointDoublingFollowsTheFormula := by
  intro s rd a ha C p x y
  have hP : Point.Fits ⟨x, y⟩ := ⟨lo256_lt _, hi256_lt _⟩
  obtain ⟨t, ht, ends⟩ := pointResult_ends s rd (pdbl_fits C ⟨x, y⟩ _)
  refine ⟨decodes_of_fields rd a 0 0 rfl, t, ?_, fun h => ends.raised .divideByZero (pdbl_of_zero ha hP h),
    fun h hg => ends.raised .noModularInverse (pdbl_of_gcd_ne_one ha hP h hg), fun h hg => ?_, fun hx hy h hg => ?_⟩
  · simp only [exec, execPdbl, Operand.point_eq]
    exact ht
  · obtain ⟨lam, hlt, hmul, hpdbl⟩ := pdbl_of_coprime ha hP h hg
    exact ⟨lam, hlt, hmul, ends.endsIn hpdbl⟩
  · obtain ⟨lam, x', y', hlt, hx', hy', hmul, hxeq, hyeq, hpdbl⟩ := pdbl_of_reduced (P := ⟨x, y⟩) ha hx hy h hg
    exact ⟨lam, x', y', hlt, hx', hy', hmul, hxeq, hyeq, ends.wrote hpdbl⟩

/-- Settles O58: the cases of the two differences and of the division (`padd_eq`). -/
theorem pointAdditionFollowsTheFormula : Obligations.PointAdditionFollowsTheFormula := by
  intro s rd a b hp0 p x1 y1 x2 y2
  have hP : Point.Fits ⟨x1, y1⟩ := ⟨lo256_lt _, hi256_lt _⟩
  have hQ : Point.Fits ⟨x2, y2⟩ := ⟨lo256_lt _, hi256_lt _⟩
  obtain ⟨t, ht, ends⟩ := pointResult_ends s rd (padd_fits s.curve ⟨x1, y1⟩ ⟨x2, y2⟩ _)
  refine ⟨decodes_of_fields rd a b 0 rfl, t, ?_, fun h => ends.raised .degenerateGeometry (padd_of_x_eq h),
    fun hne h => ends.raised .widthOverflow (padd_of_overflow hp0 hP hQ hne h), fun hne dy dx hdy hdx =>
    ⟨fun h => ends.raised .divideByZero (padd_of_zero hp0 hP hQ hne hdy hdx h),
      fun h hg => ends.raised .noModularInverse (padd_of_gcd_ne_one hp0 hP hQ hne hdy hdx h hg), fun h hg => ?_⟩,
    fun hne hx1 hy1 hx2 hy2 hg => ?_⟩
  · simp only [exec, execPadd, Operand.point_eq]
    exact ht
  · obtain ⟨lam, hlt, hmul, hpadd⟩ := padd_of_coprime hp0 hP hQ hne hdy hdx h hg
    exact ⟨lam, hlt, hmul, ends.endsIn hpadd⟩
  · obtain ⟨lam, x3, y3, hlt, hx3, hy3, hmul, hxeq, hyeq, hpadd⟩ :=
      padd_of_reduced (P := ⟨x1, y1⟩) (Q := ⟨x2, y2⟩) hx1 hy1 hx2 hy2 hne hg
    exact ⟨lam, x3, y3, hlt, hx3, hy3, hmul, hxeq, hyeq, ends.wrote hpadd⟩

/-- Settles O59: the recursion is the scan (`psmul_eq_psmulScan`). -/
theorem scalarMultiplicationIsTheScan : Obligations.ScalarMultiplicationIsTheScan := by
  intro s rd a b k P
  have hP : P.Fits := ⟨lo256_lt _, hi256_lt _⟩
  obtain ⟨t, ht, ends⟩ := pointResult_ends s rd (psmulFrom_fits (C := s.curve) hP k k _)
  have hscan : k ≠ 0 → psmulFrom s.curve k k P = psmulScan s.curve k P := psmul_eq_psmulScan s.curve P
  refine ⟨decodes_of_fields rd a b 0 rfl, t, ?_, fun h => ends.raised .degenerateGeometry ?_, fun h => ends.wrote ?_,
    fun hk Q hQ => ends.wrote ((hscan hk).trans hQ), fun hk e he => ends.raised e ((hscan hk).trans he)⟩
  · simp only [exec, execPmul, Operand.u256_eq_lo256, Operand.point_eq]
    exact ht
  · rw [h]
    exact psmul_zero s.curve P
  · rw [h]
    exact psmul_one s.curve P

/-- Settles O60: on a valid curve every denominator that is not 0 modulo p has an inverse. -/
theorem curveFailureMap : Obligations.CurveFailureMap := by
  intro C ha
  have hp := curve_p_lt C
  refine ⟨fun P hx hy => ⟨fun h => ?_, pdbl_of_gcd_ne_one ha ⟨hx.trans hp, hy.trans hp⟩, fun hv h0 => ?_⟩,
    fun P Q hPx hPy hQx hQy => ⟨padd_of_x_eq, padd_of_reduced_of_gcd_ne_one hPx hPy hQx hQy, fun hv hne => ?_⟩⟩
  · exact pdbl_of_zero ha ⟨hx.trans hp, hy.trans hp⟩ (by rw [h, Nat.mul_zero, Nat.zero_mod])
  · have hcop : Nat.Coprime (2 * P.y) C.p := Nat.Coprime.mul_left
      (Nat.coprime_of_lt_prime two_ne_zero (Nat.lt_of_succ_lt hv.large) hv.prime).symm
      (Nat.coprime_of_lt_prime h0 hy hv.prime).symm
    have hden : 2 * P.y % C.p ≠ 0 := fun h =>
      hv.prime.one_lt.ne' (Nat.Coprime.eq_one_of_dvd hcop.symm (Nat.dvd_of_mod_eq_zero h))
    obtain ⟨-, x', y', -, hx', hy', -, -, -, hpdbl⟩ := pdbl_of_reduced ha hx hy hden hcop
    exact ⟨⟨x', y'⟩, hpdbl, hx', hy'⟩
  · have hcop : Nat.gcd ((Q.x + C.p - P.x) % C.p) C.p = 1 :=
      (Nat.coprime_of_lt_prime (sub_mod_ne_zero hQx hPx hne.symm) (Nat.mod_lt _ hv.prime.pos) hv.prime).symm
    obtain ⟨-, x3, y3, -, hx3, hy3, -, -, -, hpadd⟩ := padd_of_reduced hPx hPy hQx hQy hne hcop
    exact ⟨⟨x3, y3⟩, hpadd, hx3, hy3⟩

/-- Settles O55: two points that fit; two registers hold the same point exactly when all their bits are equal. -/
theorem pointConstructorsAndEquality : Obligations.PointConstructorsAndEquality := by
  intro s rd a b
  refine ⟨⟨decodes_of_fields rd 0 0 0 rfl, ?_⟩, ⟨decodes_of_fields rd a b 0 rfl, ?_⟩,
    decodes_of_fields 0 a b 0 rfl, ?_⟩
  · obtain ⟨t, ht, ends⟩ := pointResult_ends s rd (r := .ok ⟨s.curve.gx, s.curve.gy⟩)
      fun h => by cases h; exact ⟨curve_gx_lt _, curve_gy_lt _⟩
    exact ⟨t, ht, ends.wrote rfl⟩
  · obtain ⟨t, ht, ends⟩ := pointResult_ends s rd (r := .ok ⟨(s.src1 a).u256, (s.src2 b).u256⟩)
      fun h => by cases h; exact ⟨Operand.u256_lt _, Operand.u256_lt _⟩
    rw [← Operand.u256_eq_lo256, ← Operand.u256_eq_lo256]
    exact ⟨t, ht, ends.wrote rfl⟩
  · rw [← decide_eq_decide.mpr (Operand.point_eq_iff (s.src1 a) (s.src2 b))]
    exact commitFlags_wrote s _

end Sys2Proof
end

section
/-! PROOF. Status and interrupt (60_exceptions.md): the W1C of STATUS (O22), REJ over every step (O21), and the
interrupt output at each event that sets or clears DONE or IEN (O25). -/

namespace Sys2Proof.Machine

/-! ### Writes of STATUS (10_state.md R28, 60_exceptions.md R207) -/

/-- The low half of a W1C word is the value written, at either width. -/
theorem getLsbD_mergeBytes_low {n i : Nat} (hn : n = 4 ∨ n = 8) (hi : i < 32) (old : BitVec 64) (v : Nat) :
    (mergeBytes old 0 n v).getLsbD i = v.testBit i := by
  rw [getLsbD_mergeBytes _ _ _ _ _ (by omega), if_pos (by omega)]
  rfl

theorem State.w1cStatus_eq_self (s : State) {w : BitVec 64} (hdone : w.getLsbD 1 = false) (herr : w.getLsbD 2 = false)
    (hrej : w.getLsbD 3 = false) : s.w1cStatus w = s := by
  rw [State.w1cStatus, hdone, herr, hrej]
  simp

section
variable {s t : State}

theorem State.hostWrite_status (hr : s.rst = false) {n : Nat} (hn : n = 4 ∨ n = 8) (v : Nat) :
    s.hostWrite 0x010 n v = s.w1cStatus (mergeBytes 0#64 0 n v) :=
  State.hostWrite_of_wellFormed hr (by unfold Claim.WellFormedAccess; omega)

theorem State.hostWrite_status_high (hr : s.rst = false) (v : Nat) : s.hostWrite 0x014 4 v = s := by
  have bit : ∀ i, i < 32 → (mergeBytes 0#64 4 4 v).getLsbD i = false := fun i hi => by
    rw [getLsbD_mergeBytes_high_half _ _ (by omega), if_pos hi, BitVec.getLsbD_zero]
  exact (State.hostWrite_of_wellFormed hr (.inr ⟨rfl, rfl⟩)).trans
    (s.w1cStatus_eq_self (bit 1 (by decide)) (bit 2 (by decide)) (bit 3 (by decide)))

/-! ### REJ (60_exceptions.md R208) -/

/-- Bit 3 of the W1C word is set only by a write that begins at byte 0 and has bit 3 set. -/
theorem low_byte_of_w1c_rej {lo n v : Nat} (h : (mergeBytes 0#64 lo n v).getLsbD 3 = true) :
    lo = 0 ∧ v.testBit 3 = true := by
  rw [getLsbD_mergeBytes _ _ _ _ _ (by decide)] at h
  split at h
  · obtain rfl : lo = 0 := by omega
    exact ⟨rfl, h⟩
  · simp at h

/-- Only the W1C of STATUS can clear REJ. -/
theorem rej_of_writeWord (h : s.status.rej = true) (lo n v : Nat) (p : Region) :
    (s.writeWord lo n v p).status.rej = true ∨ (p = .status ∧ lo = 0 ∧ v.testBit 3 = true) := by
  cases p with
  | id | flags | reserved | ctrl => exact .inl h
  | status =>
    cases hw : (mergeBytes 0#64 lo n v).getLsbD 3 with
    | true => exact .inr ⟨rfl, low_byte_of_w1c_rej hw⟩
    | false => exact .inl (by rw [State.writeWord, State.w1cStatus_status_rej, h, hw]; rfl)
  | cmd =>
    left
    simp only [State.writeWord, State.offer]
    split_ifs
    · rfl
    · exact h
    · exact h
  | imm | signs | rf =>
    left
    simp only [State.writeWord, State.unlessBusy]
    split
    · rfl
    · exact h

theorem rej_of_hostWrite (h : s.status.rej = true) (off n v : Nat) :
    (s.hostWrite off n v).status.rej = true ∨ (off = 0x010 ∧ v.testBit 3 = true) := by
  unfold State.hostWrite
  split
  · exact .inl h
  · refine (rej_of_writeWord h _ n v _).imp_right fun ⟨hp, hlo, hv⟩ => ⟨?_, hv⟩
    have := eq_of_regionOf_status hp
    omega

theorem rej_of_mauTurn (h : mauTurn s = .next t) : t.status.rej = s.status.rej := by
  rcases mauTurn_next_cases h with rfl | ⟨-, rfl | ⟨i, he⟩⟩
  · rfl
  · rfl
  · exact (settled_of_exec he).rej

theorem rej_of_serve {i : Input} (hrej : s.status.rej = true) (h : serve i s = .next t) :
    t.status.rej = true ∨ (∃ level, i = .rst level) ∨
      ∃ addr n v, i = .write addr n v ∧ addr.offset? = some 0x010 ∧ v.testBit 3 = true := by
  cases i with
  | read a n =>
    obtain ⟨off, rfl⟩ := next_of_atOffset h
    exact .inl hrej
  | write a n v =>
    rcases atOffset_cases a fun off => s.hostWrite off n v with ⟨off, ha, he⟩ | ⟨-, he⟩
    · cases he.symm.trans h
      refine (rej_of_hostWrite hrej off n v).imp_right fun ⟨hoff, hv⟩ => .inr ⟨a, n, v, rfl, ?_, hv⟩
      rw [ha, hoff]
    · cases he.symm.trans h
  | rst level => exact .inr (.inl ⟨level, rfl⟩)
  | mau => exact .inl ((rej_of_mauTurn h).trans hrej)

/-! ### The interrupt output (60_exceptions.md R210) -/

theorem Settled.irq_eq (w : Settled s t) : t.irq = s.ien := by
  rw [State.irq, w.ien, w.done, Bool.and_true]

theorem State.irq_of_not_done (h : s.status.done = false) : s.irq = false := by
  rw [State.irq, h, Bool.and_false]

theorem State.irq_of_not_ien (h : s.ien = false) : s.irq = false := by
  rw [State.irq, h, Bool.false_and]

end

end Sys2Proof.Machine

namespace Sys2Proof

open Sys2Proof.Machine

/-- Settles O22: the low half of the value is the W1C word; the upper half holds no field that a write clears. -/
theorem statusWriteClearsTheWrittenOnes : Obligations.StatusWriteClearsTheWrittenOnes := by
  intro s n v hr
  refine ⟨fun hn => ?_, State.hostWrite_status_high hr v⟩
  have bit : ∀ i, i < 32 → (mergeBytes 0#64 0 n v).getLsbD i = v.testBit i := fun i hi =>
    getLsbD_mergeBytes_low hn hi _ v
  rw [State.hostWrite_status hr hn, State.w1cStatus, bit 1 (by decide), bit 2 (by decide), bit 3 (by decide)]

/-- Settles O21: the MAU's turn keeps REJ, and of the inputs only a level of rst and the W1C of bit 3 can clear it. -/
theorem rejStaysSetUntilCleared : Obligations.RejStaysSetUntilCleared := by
  intro s t h hrej
  cases hi : s.inputs with
  | nil => exact .inl ((rej_of_mauTurn (step_nil s hi ▸ h)).trans hrej)
  | cons i rest =>
    rcases rej_of_serve (s := { s with inputs := rest }) hrej (step_cons s i rest hi ▸ h) with
      ht | ⟨level, rfl⟩ | ⟨a, n, v, rfl, ha, hv⟩
    · exact .inl ht
    · exact .inr (.inl ⟨level, rest, rfl⟩)
    · exact .inr (.inr ⟨a, n, v, rest, rfl, ha, hv⟩)

/-- Settles O25: a completion sets DONE and keeps IEN; each other event leaves DONE or IEN 0. -/
theorem interruptLineFollowsDoneAndIen : Obligations.InterruptLineFollowsDoneAndIen := by
  refine ⟨fun _ => rfl, fun s i => ?_, fun s c => State.irq_of_not_done rfl, fun s v hr hv => ?_,
    fun s v hr hv => ?_, fun s => State.irq_of_not_ien rfl, fun s => State.irq_of_not_ien rfl⟩
  · obtain ⟨t, ht, -⟩ := exec_endsWell i s
    exact ⟨t, ht, (settled_of_exec ht).irq_eq⟩
  · refine State.irq_of_not_done ?_
    rw [State.hostWrite_status hr (.inr rfl), State.w1cStatus_status_done,
      getLsbD_mergeBytes_low (.inr rfl) (by decide), hv, Bool.not_true, Bool.and_false]
  · refine State.irq_of_not_ien ?_
    rw [State.hostWrite_of_wellFormed hr (.inl ⟨rfl, rfl⟩)]
    exact (congrArg State.ien (s.writeWord_ctrl_low v (by decide))).trans hv

end Sys2Proof
end

section
/-! PROOF. The error codes of the commands (60_exceptions.md R200): which codes each shared function can report, on the
256-bit operands the commands give it, and from them the table's column of commands (O30). -/

set_option exponentiation.threshold 600

namespace Sys2Proof.Machine

open Sys2Proof.Claim

/-! ### The codes a computation can report -/

/-- Every error of the computation has a code of the list. -/
def ReportsOnly {α : Type} (l : List Nat) (r : Except ErrorKind α) : Prop :=
  ∀ e, r = .error e → e.code.toNat ∈ l

section
variable {α β : Type} {l l' : List Nat} {r : Except ErrorKind α}

theorem ReportsOnly.ok (a : α) : ReportsOnly l (.ok a : Except ErrorKind α) := nofun

theorem ReportsOnly.error {e : ErrorKind} (h : e.code.toNat ∈ l) : ReportsOnly l (.error e : Except ErrorKind α) := by
  intro e' he
  cases he
  exact h

theorem ReportsOnly.mono (h : ReportsOnly l r) (hl : l ⊆ l') : ReportsOnly l' r := fun e he => hl (h e he)

theorem ReportsOnly.map (h : ReportsOnly l r) (f : α → β) : ReportsOnly l (r.map f) := by
  cases r with
  | ok a => exact .ok _
  | error e => exact .error (h e rfl)

end

theorem narrow_reportsOnly (v : Nat) : ReportsOnly [5] (narrow v) := by
  unfold narrow
  split
  · exact .error (by decide)
  · exact .ok _

theorem udiv_reportsOnly (a b : Nat) : ReportsOnly [1] (udiv a b) := by
  unfold udiv
  split
  · exact .error (by decide)
  · exact .ok _

theorem sdiv_reportsOnly (a b : Signed) : ReportsOnly [1] (sdiv a b) := by
  unfold sdiv
  split
  · exact .error (by decide)
  · exact .ok _

/-! ### The clock operations (42_modular.md R161 to R165) -/

theorem clockAdd_reportsOnly (a b p : Nat) : ReportsOnly [5] (clockAdd a b p) := narrow_reportsOnly _

theorem clockSub_reportsOnly (a b p : Nat) : ReportsOnly [5] (clockSub a b p) := narrow_reportsOnly _

section
variable {a b p : Nat} (ha : a < 2 ^ 256) (hb : b < 2 ^ 256) (hp : p < 2 ^ 256)
include ha hb hp

theorem clockMul_reportsOnly : ReportsOnly [1] (clockMul a b p) := by
  rw [clockMul_eq ha hb hp]
  split
  · exact .error (by decide)
  · exact .ok _

/-- The cases of R165: no division by 0, no inverse, or the inverse, whose product fails only for p = 0. -/
theorem clockDiv_reportsOnly : ReportsOnly [1, 2] (clockDiv a b p) := by
  by_cases h0 : b = 0
  · rw [h0, clockDiv_zero]
    exact .error (by decide)
  by_cases hg : Nat.gcd b p = 1
  · obtain ⟨c, hc, hle, -⟩ := modinv_of_coprime hb hp h0 hg
    simp only [clockDiv, hc]
    exact (clockMul_reportsOnly ha (hle.trans_lt (by omega)) hp).mono (by decide)
  · rw [clockDiv_of_gcd_ne_one hb hp h0 hg]
    exact .error (by decide)

end

/-! ### The clock operations inside a point operation (43_curve.md R184, R185) -/

/-- The end of a clock operation: a 256-bit value, or one of DivideByZero, NoModularInverse, WidthOverflow. -/
structure ClockEnds (r : Except ErrorKind Nat) : Prop where
  lt : ∀ {v}, r = .ok v → v < 2 ^ 256
  reports : ReportsOnly [1, 2, 5] r

/-- What follows a clock operation runs on its 256-bit result. -/
theorem ClockEnds.bind {α : Type} {r : Except ErrorKind Nat} (h : ClockEnds r) {f : Nat → Except ErrorKind α}
    (hf : ∀ v, v < 2 ^ 256 → ReportsOnly [1, 2, 5] (f v)) : ReportsOnly [1, 2, 5] (r >>= f) := by
  cases r with
  | ok v => exact hf v (h.lt rfl)
  | error e => exact .error (h.reports e rfl)

theorem clockAdd_ok_lt_256 {a b p v : Nat} (h : clockAdd a b p = .ok v) : v < 2 ^ 256 := by
  refine narrow_ok_lt_256 ?_ h
  split
  · exact usub_lt .w512 _ _
  · exact uadd_lt .w512 _ _

theorem clockAdd_clockEnds (a b p : Nat) : ClockEnds (clockAdd a b p) :=
  ⟨clockAdd_ok_lt_256, (clockAdd_reportsOnly a b p).mono (by decide)⟩

theorem clockSub_clockEnds (a b p : Nat) : ClockEnds (clockSub a b p) :=
  ⟨clockSub_ok_lt_256, (clockSub_reportsOnly a b p).mono (by decide)⟩

section
variable {a b p : Nat} (ha : a < 2 ^ 256) (hb : b < 2 ^ 256) (hp : p < 2 ^ 256)
include ha hb hp

theorem clockMul_clockEnds : ClockEnds (clockMul a b p) :=
  ⟨clockMul_ok_lt_256, (clockMul_reportsOnly ha hb hp).mono (by decide)⟩

theorem clockDiv_clockEnds : ClockEnds (clockDiv a b p) :=
  ⟨clockDiv_ok_lt_256, (clockDiv_reportsOnly ha hb hp).mono (by decide)⟩

end

/-! ### The point operations (43_curve.md R183 to R186) -/

section
variable {C : Curve} {P Q : Point}

theorem pointCheck_reportsOnly {x y : Nat} (hb : C.b < C.p) (hx : x < 2 ^ 256) (hy : y < 2 ^ 256) :
    ReportsOnly [6] (pointCheck C x y) := by
  rw [pointCheck_eq hb hx hy]
  split
  · exact .ok _
  · exact .error (by decide)

theorem pdbl_reportsOnly (hP : P.Fits) : ReportsOnly [1, 2, 5] (pdbl C P) := by
  obtain ⟨hx, hy⟩ := hP
  have hp := curve_p_lt C
  unfold pdbl
  exact (clockMul_clockEnds hx hx hp).bind fun _ ht1 => (clockMul_clockEnds (by decide) ht1 hp).bind fun _ _ =>
    (clockAdd_clockEnds _ _ _).bind fun _ hnum => (clockMul_clockEnds (by decide) hy hp).bind fun _ hden =>
    (clockDiv_clockEnds hnum hden hp).bind fun _ hlam => (clockMul_clockEnds hlam hlam hp).bind fun _ _ =>
    (clockMul_clockEnds (by decide) hx hp).bind fun _ _ => (clockSub_clockEnds _ _ _).bind fun _ _ =>
    (clockSub_clockEnds _ _ _).bind fun _ hdx => (clockMul_clockEnds hlam hdx hp).bind fun _ _ =>
    (clockSub_clockEnds _ _ _).bind fun _ _ => .ok _

theorem padd_reportsOnly (C : Curve) (P Q : Point) : ReportsOnly [1, 2, 3, 5] (padd C P Q) := by
  have hp := curve_p_lt C
  unfold padd
  split
  · exact .error (by decide)
  · refine ReportsOnly.mono ?_ (show [1, 2, 5] ⊆ [1, 2, 3, 5] by decide)
    exact (clockSub_clockEnds _ _ _).bind fun _ hdy => (clockSub_clockEnds _ _ _).bind fun _ hdx =>
      (clockDiv_clockEnds hdy hdx hp).bind fun _ hlam => (clockMul_clockEnds hlam hlam hp).bind fun _ _ =>
      (clockSub_clockEnds _ _ _).bind fun _ _ => (clockSub_clockEnds _ _ _).bind fun _ _ =>
      (clockSub_clockEnds _ _ _).bind fun _ hex => (clockMul_clockEnds hlam hex hp).bind fun _ _ =>
      (clockSub_clockEnds _ _ _).bind fun _ _ => .ok _

theorem psmulFrom_reportsOnly (hP : P.Fits) (fuel k : Nat) : ReportsOnly [1, 2, 3, 5] (psmulFrom C fuel k P) := by
  induction fuel generalizing k with
  | zero => exact .error (by decide)
  | succ fuel ih =>
    unfold psmulFrom
    split_ifs
    · exact .error (by decide)
    · exact .ok _
    · split
      · next Q hQ => exact (pdbl_reportsOnly (psmulFrom_fits hP _ _ Q hQ)).mono (by decide)
      · next e he => exact .error (ih _ e he)
    · split
      · exact padd_reportsOnly C _ P
      · next e he => exact .error (ih _ e he)

end

theorem Operand.point_fits (o : Operand) : o.point.Fits := ⟨BitVec.isLt _, BitVec.isLt _⟩

/-! ### What a command reports -/

/-- If the answer has ERR = 1, its code is of the list. -/
def EndsReporting (l : List Nat) (r : Result) : Prop :=
  ∀ t, r = .next t → t.status.err = true → t.status.errcode.toNat ∈ l

section
variable {s : State} (he : s.status.err = false)
include he

theorem endsReporting_commitReg {l : List Nat} (rd : Reg) {r : Except ErrorKind Operand} (h : ReportsOnly l r) :
    EndsReporting l (s.commitReg rd r) := by
  intro t ht herr
  cases r with
  | ok o =>
    cases ht
    simp [he] at herr
  | error e =>
    cases ht
    exact h e rfl

theorem endsReporting_commitFlags {l : List Nat} (f : Flags) : EndsReporting l (s.commitFlags f) := by
  intro t ht herr
  rw [(wroteFlags_of_commitFlags ht).err, he] at herr
  cases herr

end

theorem endsReporting_raise {l : List Nat} (s : State) {e : ErrorKind} (h : e.code.toNat ∈ l) :
    EndsReporting l (.next (s.raise e)) := by
  intro t ht _
  cases ht
  exact h

theorem exec_endsReporting {s : State} (he : s.status.err = false) (i : Instr)
    (hb : (∃ rd a b, i = .pmake rd a b) → s.curve.b < s.curve.p) : EndsReporting (mayReport i) (exec i s) := by
  cases i with
  | ucmp256 | ucmp512 | uodd | scmp | peq => exact endsReporting_commitFlags he _
  | uparse256 | uparse512 => exact endsReporting_raise s (by decide)
  | unarrow => exact endsReporting_commitReg he _ ((narrow_reportsOnly _).map _)
  | udiv256 | udiv512 => exact endsReporting_commitReg he _ ((udiv_reportsOnly _ _).map _)
  | sdiv => exact endsReporting_commitReg he _ ((sdiv_reportsOnly _ _).map _)
  | madd => exact endsReporting_commitReg he _ ((clockAdd_reportsOnly _ _ _).map _)
  | msub => exact endsReporting_commitReg he _ ((clockSub_reportsOnly _ _ _).map _)
  | mmul =>
    exact endsReporting_commitReg he _
      ((clockMul_reportsOnly (Operand.u256_lt _) (Operand.u256_lt _) (Operand.u256_lt _)).map _)
  | mdiv =>
    exact endsReporting_commitReg he _
      ((clockDiv_reportsOnly (Operand.u256_lt _) (Operand.u256_lt _) (Operand.u256_lt _)).map _)
  | minv =>
    exact endsReporting_commitReg he _
      ((clockDiv_reportsOnly (by decide) (Operand.u256_lt _) (Operand.u256_lt _)).map _)
  | pmake rd a b =>
    exact endsReporting_commitReg he _
      ((pointCheck_reportsOnly (hb ⟨rd, a, b, rfl⟩) (Operand.u256_lt _) (Operand.u256_lt _)).map _)
  | pdbl => exact endsReporting_commitReg he _ ((pdbl_reportsOnly (Operand.point_fits _)).map _)
  | padd => exact endsReporting_commitReg he _ ((padd_reportsOnly _ _ _).map _)
  | pmul => exact endsReporting_commitReg he _ ((psmulFrom_reportsOnly (Operand.point_fits _) _ _).map _)
  | _ => exact endsReporting_commitReg he _ (.ok _)

end Sys2Proof.Machine

namespace Sys2Proof

open Sys2Proof.Machine

/-- Settles O30: each command commits a computation that reports only the codes of its row. -/
theorem onlyTheListedErrorsAreReported : Obligations.OnlyTheListedErrorsAreReported :=
  fun i _ t hb he ht herr => exec_endsReporting he i hb t ht herr

end Sys2Proof
end

section
/-! PROOF. Reset and hazards (70_reset_and_hazards.md): the state after reset (O1), a machine held in reset (O24), and
the completion of every command in flight (O14). -/

namespace Sys2Proof.Machine

section
variable {s : State}

/-! ### The reset input (R230 to R233) -/

/-- A level of rst leaves the reset values, unless it drives a deasserted input low (log 5). -/
theorem step_rst {level : Bool} {rest : List Input} (hl : level = true ∨ s.rst = true)
    (h : s.inputs = .rst level :: rest) :
    step s = .next
      { State.reset with curve := s.curve, rst := level, inputs := rest, readData := s.readData } := by
  rw [step_cons s _ rest h, serve, State.setRst, if_pos (by simpa using hl)]

theorem State.readBytes_of_rst (hr : s.rst = true) (off n : Nat) : s.readBytes off n = List.replicate n 0#8 := by
  simp [State.readBytes, hr]

theorem mauTurn_of_rst (hr : s.rst = true) : mauTurn s = .next s :=
  if_pos hr

/-! ### The command in flight completes (R245) -/

/-- A machine held in reset is idle. -/
theorem State.Inv.rst_of_busy (h : s.Inv) (hb : s.status.busy = true) : s.rst = false := by
  cases hr : s.rst with
  | false => rfl
  | true =>
    rw [h.in_reset hr] at hb
    cases hb

theorem State.Inv.inflight_of_busy (h : s.Inv) (hb : s.status.busy = true) : ∃ f, s.inflight = some f :=
  Option.isSome_iff_exists.mp (h.busy_iff.symm.trans hb)

/-- After the accesses at its head, a list of accesses and turns is used up or goes on with a turn. -/
theorem dropWhile_isAccess {l : List Input} (h : ∀ i ∈ l, i.isAccess = true ∨ i = .mau) :
    l.dropWhile Input.isAccess = [] ∨ ∃ rest, l.dropWhile Input.isAccess = .mau :: rest := by
  induction l with
  | nil => exact .inl rfl
  | cons i l ih =>
    rcases h i List.mem_cons_self with hi | rfl
    · rw [List.dropWhile_cons_of_pos hi]
      exact ih fun j hj => h j (List.mem_cons_of_mem i hj)
    · exact .inr ⟨l, rfl⟩

/-- The MAU takes its own step when no input waits (log 2) and when its turn is the next input (log 1). -/
theorem step_eq_mauTurn (h : s.inputs = [] ∨ ∃ rest, s.inputs = .mau :: rest) :
    ∃ rest, step s = mauTurn { s with inputs := rest } := by
  rcases h with h | ⟨rest, h⟩
  · exact ⟨s.inputs, step_nil s h⟩
  · exact ⟨rest, step_cons s .mau rest h⟩

end

end Sys2Proof.Machine

namespace Sys2Proof

open Sys2Proof.Machine

/-- Settles O14: the accesses before the next turn keep the command in flight, and the turn completes it. -/
theorem everyCommandInFlightCompletes : Obligations.EveryCommandInFlightCompletes := by
  intro s hinv hb hin
  obtain ⟨f, hf⟩ := hinv.inflight_of_busy hb
  obtain ⟨he, -⟩ := hinv.busy_clear hb
  obtain ⟨y, hsame, hyin, hrun⟩ := run_accesses (s.inputs.takeWhile Input.isAccess)
    (s.inputs.dropWhile Input.isAccess) (fun _ => List.mem_takeWhile_imp) hb he (hinv.no_err_code he)
    List.takeWhile_append_dropWhile.symm
  obtain ⟨rest, hstep⟩ := step_eq_mauTurn (hyin ▸ dropWhile_isAccess hin)
  obtain ⟨-, t, -, ht, -, hset⟩ := (hsame.with_inputs rest).mauTurn (hinv.rst_of_busy hb) hf
  refine ⟨(s.inputs.takeWhile Input.isAccess).length + 1, t, ?_, ?_, hset.busy, hset.done⟩
  · exact Nat.succ_le_succ (List.takeWhile_prefix _).length_le
  · exact (hrun 1).trans (run_succ_of_step (hstep.trans ht) 0)

/-- Settles O1: the registers and the tags one by one, the other elements by the definition of `State.reset`. -/
theorem resetLeavesTheSpecifiedValues : Obligations.ResetLeavesTheSpecifiedValues := by
  have regs : ∀ r, State.reset.reg r = 0#512 := fun r => Vector.getElem_replicate r.isLt
  have tags : ∀ r, State.reset.tag r = true := by decide
  exact ⟨regs, tags, rfl, rfl, rfl, rfl, rfl, rfl, rfl, rfl, rfl⟩

/-- Settles O24: `setRst` at the two levels, and while rst is asserted each kind of event that it makes harmless. -/
theorem resetInputRestoresTheResetState : Obligations.ResetInputRestoresTheResetState := by
  intro s rest
  refine ⟨fun h => step_rst (.inl rfl) h, fun hr h => step_rst (.inr hr) h, fun hr off n v hoff => ⟨fun h => ?_,
    fun h => ?_⟩, fun hr h => ?_⟩
  · rw [step_write hoff h, State.hostWrite_of_rst (s := { s with inputs := rest }) hr]
  · rw [step_read hoff h, State.readBytes_of_rst hr]
  · rw [step_nil s h, mauTurn_of_rst hr]

end Sys2Proof
end
